-- ==== Sys2Proof/Word.lean ====
section
/-! DEFINITION. The word types: registers are 32 bits wide, symbols and buffer units are bytes, a code is a string of
bits (00_scope.md R9, R12, R13). -/

namespace Sys2Proof

/-- A host-visible register's contents, an index on the host port, a frequency counter (R9, R22). -/
abbrev Word := BitVec 32

/-- A symbol, a buffer byte, a container byte, the key byte (R9). -/
abbrev Byte := BitVec 8

/-- A byte string: index 0 first (R13). -/
abbrev ByteString := List Byte

/-- A bit string: index 0 is the first bit produced or consumed (R13). -/
abbrev BitString := List Bool

end Sys2Proof
end

