-- ==== Sys2Proof/Config.lean ====
section
/-! DEFINITION. What one instance of the hardware fixes (00_scope.md R8) and the values the spec leaves free
(93_implementation_defined.md U4 to U7, U9). -/

namespace Sys2Proof

/-- The parameters of R8. The host reads each as a register (10_state.md R30 to R33). Which values are legal is said by
`Params.legal` in WellFormed.lean. -/
structure Params where
  /-- `IBUF_SIZE`, bytes in the input buffer. -/
  ibufSize : Word
  /-- `OBUF_SIZE`, bytes in the output buffer. -/
  obufSize : Word
  /-- `DEC_TABLE_CAP`, most code-table entries DECODE stores. -/
  decTableCap : Word
  /-- `DEC_CODE_CAP`, longest code in bits DECODE stores: at most 65535, so 16 bits (R33). -/
  decCodeCap : BitVec 16
deriving DecidableEq, Repr

/-- DESIGN CHOICE (log 3, unsafe): R8 leaves the four values OPEN. `State.reset` is the instance whose parameters are
those of the vectors of 95_test_vectors.md. No statement rests on these values: statements hold for the parameters of
any state. -/
def Config.resetParams : Params where
  ibufSize := 4096
  obufSize := 4096
  decTableCap := 256
  decCodeCap := 255

/-- FREE VALUE (log 4, safe): the byte an unwritten IBUF index reads as, one for each draw and index (20_memory.md R77,
70_reset_and_hazards.md R292, U7). -/
opaque Config.freeIbuf : (draw index : Nat) → Byte

/-- FREE VALUE (log 4, safe): the byte an unspecified OBUF index reads as while the core is idle, one for each draw and
index (45_commands.md R252, 70_reset_and_hazards.md R291, R299, U5, U6, U7, U9). -/
opaque Config.freeObuf : (draw index : Nat) → Byte

/-- FREE VALUE (log 5, safe): the byte an OBUF read returns while BUSY = 1, a fresh one for each read (20_memory.md
R66, U4). -/
opaque Config.freeBusyRead : (draw : Nat) → Byte

end Sys2Proof
end

