-- ==== Sys2Proof/Syntax.lean ====
section
/-! DEFINITION. The instructions: one constructor per row of spec/opcode_table.json (30_encoding.md R82, R100). -/

namespace Sys2Proof

/-- A legal command word. A command has no register or immediate fields: its operands are implicit (30_encoding.md R81,
R84). -/
inductive Instr where
  /-- CTRL write of 0 (45_commands.md R241). -/
  | nop
  /-- CTRL write of 1 (45_commands.md R242). -/
  | encode
  /-- CTRL write of 2 (45_commands.md R243). -/
  | decode
deriving DecidableEq, Repr

end Sys2Proof
end

