-- ==== Sys2Proof/WellFormed.lean ====
section
/-! DEFINITION. What a well-formed instruction and a legal set of parameters are. -/

namespace Sys2Proof

/-- An instruction carries no field, so nothing can be out of range: every instruction is well formed (30_encoding.md
R81: "The command has no register or immediate fields"). The reserved field of the word is the decoder's to refuse. -/
def Instr.wellFormed : Instr → Bool
  | .nop => true
  | .encode => true
  | .decode => true

/-- The legal range of every parameter (00_scope.md R8): both sizes 1 to 2^32-1, DEC_TABLE_CAP at least 256,
DEC_CODE_CAP at least 255. The upper bounds hold by the widths. -/
def Params.legal (p : Params) : Bool :=
  decide (1 ≤ p.ibufSize.toNat) && decide (1 ≤ p.obufSize.toNat)
    && decide (256 ≤ p.decTableCap.toNat) && decide (255 ≤ p.decCodeCap.toNat)

end Sys2Proof
end

