-- ==== Sys2Proof/Decode.lean ====
section
/-! DEFINITION. The command decoder (30_encoding.md R81 to R86), total on every 32-bit word and rejecting by name, and
the encoder. -/

namespace Sys2Proof

/-- Why a command word is illegal. Either way the machine completes with ILLEGAL_COMMAND (30_encoding.md R83, R85,
45_commands.md R244). -/
inductive IllegalWord where
  /-- CMD = 3 with RSV = 0 (R82, row 3). -/
  | reservedCommand
  /-- RSV is not 0, whatever CMD is (R83). -/
  | reservedBits
deriving DecidableEq, Repr

/-- The field CMD, bits 1:0 (R81). -/
def cmdField (v : Word) : BitVec 2 := v.extractLsb' 0 2

/-- The field RSV, bits 31:2 (R81). -/
def rsvField (v : Word) : BitVec 30 := v.extractLsb' 2 30

/-- The command map of R82, for RSV = 0. -/
def decodeCmdField (c : BitVec 2) : Except IllegalWord Instr :=
  if c = 0 then .ok .nop
  else if c = 1 then .ok .encode
  else if c = 2 then .ok .decode
  else .error .reservedCommand

/-- `decodeCmd` of R86, reading the two fields of R81. -/
def decodeCmd (v : Word) : Except IllegalWord Instr :=
  if rsvField v = 0 then decodeCmdField (cmdField v) else .error .reservedBits

/-- The word of an instruction, assembled from the two fields of R81: RSV = 0 and the CMD code of R82. -/
def encode (i : Instr) : Word :=
  let cmd : BitVec 2 := match i with
    | .nop => 0
    | .encode => 1
    | .decode => 2
  (0 : BitVec 30) ++ cmd

/-- The instruction the decoder reads from a word whose bits are `w`, of which the low `nbits` count and the others are
0. A command word is one 32-bit CTRL write, so no byte order applies (20_memory.md R64, R68). -/
def decodeTableWord (nbits w : Nat) : Option Instr :=
  (decodeCmd (BitVec.ofNat 32 (w % 2 ^ nbits))).toOption

end Sys2Proof
end

