-- ==== Sys2Proof/Machine/State.lean ====
section
/-! DEFINITION. The state of one instance (10_state.md R21): parameters, registers, buffers, internal state, and the
model's own input list and draw counters; the reasons a step can stop; the state right after reset. Plain data. -/

namespace Sys2Proof.Machine

/-- The result codes of 30_encoding.md R88. RESULT values 7 to 15 do not exist in the model (R89: "a model has no state
with such a value"). -/
inductive Result where
  | ok
  | emptyInput
  | truncatedContainer
  | lengthMismatch
  | unmappableCode
  | capacityExceeded
  | illegalCommand
deriving DecidableEq, Repr

/-- The core's sequencing state (10_state.md R46). -/
inductive Phase where
  | idle
  | eFreq
  | eTree
  | eCode
  | ePack
  | eSer
  | dParse
  | dDecode
deriving DecidableEq, Repr

/-- The address spaces of the host port (20_memory.md R60). -/
inductive Space where
  | reg
  | ibuf
  | obuf
deriving DecidableEq, Repr

/-- A host transaction `(space, index, width, dir, wdata)` (20_memory.md R61). A transaction wider than 32 bits is refused
whatever its data (R64, R67), so the data of a write is held in 32 bits (log 11). -/
inductive Transaction where
  | read (space : Space) (index : Word) (width : Nat)
  | write (space : Space) (index : Word) (width : Nat) (wdata : Word)
deriving DecidableEq, Repr

/-- OKAY or ERROR (R61). -/
inductive Resp where
  | okay
  | error
deriving DecidableEq, Repr

/-- The response to a transaction: `rdata` is `none` for a write; a byte read is zero-extended (R61, log 11). -/
structure Response where
  resp : Resp
  rdata : Option Word
deriving DecidableEq, Repr

/-- What can happen next (log 1): the host issues a transaction, the core takes an internal turn, or the reset input is
asserted and released. -/
inductive Event where
  | transaction (t : Transaction)
  | coreTurn
  | reset
deriving DecidableEq, Repr

/-- A buffer's written bytes: `(index, byte)` pairs, indices strictly rising, an unwritten index not listed (log 4). -/
abbrev Memory := List Host.Cell

/-- FREQ: 256 counters of 32 bits, indexed by symbol (10_state.md R40). -/
abbrev FreqTable := Vector Word 256

/-- A record of the node arena: `leaf = 1` has a symbol, `leaf = 0` has two children (10_state.md R41). -/
inductive Node where
  | leaf (freq : Word) (sym : Byte)
  | internal (freq : Word) (left right : Nat)
deriving DecidableEq, Repr

/-- A record of the encoder's code table (10_state.md R43). -/
structure CodeEntry where
  present : Bool
  len : Byte
  bits : BitString
deriving DecidableEq, Repr

/-- CODE: 256 records indexed by symbol (R43). -/
abbrev CodeTable := Vector CodeEntry 256

/-- RMAP: a finite partial map from stored code bytes to symbols, each key listed once (10_state.md R44). -/
abbrev ReverseMap := List (ByteString × Byte)

/-- The internal state of 10_state.md R40 to R48, which the host cannot read. -/
structure Internal where
  /-- FREQ (R40). -/
  freq : FreqTable
  /-- NODE, records 0 to NNODES-1; NNODES is the list's length (R41, log 9). -/
  nodes : List Node
  /-- ROOT (R41). -/
  root : Nat
  /-- HEAP, a set of node indices; HSIZE is the list's length (R42, log 9). -/
  heap : List Nat
  /-- CODE (R43). -/
  code : CodeTable
  /-- RMAP (R44). -/
  rmap : ReverseMap
  /-- LEN, IN_LEN latched at START (R45). -/
  len : Word
  /-- k8, KEY[7:0] latched at START (R45). -/
  k8 : Byte
  /-- BITS (R47). -/
  bits : BitString
  /-- B (R47, log 8). -/
  bitLen : Nat
  /-- padCount of ENCODE, pc of DECODE (R47, 44_container.md R212). -/
  padCount : Byte
  /-- payload of 43_bit_packer.md R163, pl of 44_container.md R212 (log 14). -/
  payload : ByteString
  /-- ACC (R47). -/
  acc : BitString
  /-- CNT (R47, log 8). -/
  cnt : Nat
  /-- POS (R47, log 8). -/
  pos : Nat
  /-- ENTRYCOUNT (R48). -/
  entryCount : Word
  /-- declLen (R48). -/
  declLen : Word
  /-- RSTART (R48, log 8). -/
  rstart : Nat
  /-- N (R48, log 8). -/
  payloadLen : Nat
deriving DecidableEq, Repr

/-- The whole state of an instance and what waits to happen to it. -/
structure State where
  /-- The instance's parameters, which no step changes (00_scope.md R8, log 3). -/
  params : Params
  /-- STATUS.BUSY (10_state.md R25). -/
  busy : Bool
  /-- STATUS.DONE (R26). -/
  done : Bool
  /-- STATUS.RESULT (R27). -/
  result : Result
  /-- KEY (R28). -/
  key : Word
  /-- IN_LEN (R29). -/
  inLen : Word
  /-- OUT_LEN (R34). -/
  outLen : Word
  /-- ENTRIES (R35). -/
  entries : Word
  /-- PAD[7:0]; PAD[31:8] read 0 (R36). -/
  pad : Byte
  /-- DECL_LEN (R37). -/
  declLen : Word
  /-- IBUF (R50). -/
  ibuf : Memory
  /-- OBUF (R51). -/
  obuf : Memory
  /-- PHASE (R46). -/
  phase : Phase
  /-- R40 to R48. -/
  internal : Internal
  /-- The model's own: what happens next, oldest first (log 1). -/
  queue : List Event
  /-- The model's own: the responses given, newest first (log 11). -/
  responses : List Response
  /-- The model's own: names the present draw of unwritten IBUF bytes (log 4). -/
  ibufDraw : Nat
  /-- The model's own: names the present draw of unspecified OBUF bytes (log 4). -/
  obufDraw : Nat
  /-- The model's own: OBUF reads made while BUSY = 1 (log 5). -/
  busyDraw : Nat
deriving DecidableEq, Repr

/-- Why the machine stops. No rule of the spec stops the machine: each fault is raised by a core turn in an internal
state that no run reaches, where the spec gives no value to go on with (log 10). All are safe. -/
inductive Fault where
  /-- Raised by the E_TREE turn when no single root remains: FREQ counted no symbol, or a heap index dangles. Safe. -/
  | treeWithoutRoot
  /-- Raised by the E_CODE turn when the walk meets a missing node or does not end. Safe. -/
  | brokenTree
  /-- Raised by the D_DECODE turn when the loop does not end within its bound. Safe. -/
  | decodeLoopUnfinished
deriving DecidableEq, Repr

/-- Why an instruction has no meaning. -/
inductive Refusal where
  /-- Raised by exec's arm of an instruction without a meaning. Safe. Every arm has its meaning: nothing raises it. -/
  | notModelled (mnemonic : String)
deriving DecidableEq, Repr

/-- The internal state right after reset. DESIGN CHOICE (log 7, unsafe): the spec leaves it unspecified and unobservable
(10_state.md R49, R53). -/
def Internal.reset : Internal where
  freq := Vector.replicate 256 0
  nodes := []
  root := 0
  heap := []
  code := Vector.replicate 256 { present := false, len := 0, bits := [] }
  rmap := []
  len := 0
  k8 := 0
  bits := []
  bitLen := 0
  padCount := 0
  payload := []
  acc := []
  cnt := 0
  pos := 0
  entryCount := 0
  declLen := 0
  rstart := 0
  payloadLen := 0

/-- The reset values of 10_state.md R53 in an instance with the parameters `p`: every register at its reset value, PHASE
IDLE, no byte of IBUF or OBUF written. -/
def State.resetWith (p : Params) : State where
  params := p
  busy := false
  done := false
  result := .ok
  key := 0
  inLen := 0
  outLen := 0
  entries := 0
  pad := 0
  declLen := 0
  ibuf := []
  obuf := []
  phase := .idle
  internal := Internal.reset
  queue := []
  responses := []
  ibufDraw := 0
  obufDraw := 0
  busyDraw := 0

/-- The machine right after reset (R53), with the parameters of log 3. -/
def State.reset : State := State.resetWith Config.resetParams

end Sys2Proof.Machine
end

