-- ==== Sys2Proof/Machine/Flags.lean ====
section
/-! DEFINITION. The STATUS word and its fields: the core's only flags (10_state.md R24 to R27, R39, 30_encoding.md R87,
R88). -/

namespace Sys2Proof.Machine

/-- The numbers of 30_encoding.md R88. -/
def Result.code : Result → BitVec 4
  | .ok => 0
  | .emptyInput => 1
  | .truncatedContainer => 2
  | .lengthMismatch => 3
  | .unmappableCode => 4
  | .capacityExceeded => 5
  | .illegalCommand => 6

/-- The column "fatal" of R88 (00_scope.md R18). -/
def Result.fatal : Result → Bool
  | .ok => false
  | .emptyInput => true
  | .truncatedContainer => true
  | .lengthMismatch => false
  | .unmappableCode => true
  | .capacityExceeded => true
  | .illegalCommand => true

/-- The STATUS word: bit 0 BUSY, bit 1 DONE, bits 7:4 RESULT, the other bits 0 (R87). -/
def statusWord (busy done : Bool) (r : Result) : Word :=
  (0 : BitVec 24) ++ r.code ++ (0 : BitVec 2) ++ BitVec.ofBool done ++ BitVec.ofBool busy

/-- STATUS as the host reads it (10_state.md R24). -/
def State.status (s : State) : Word := statusWord s.busy s.done s.result

/-- The flags at the start of ENCODE or DECODE (45_commands.md R245). -/
def State.setStarted (s : State) : State := { s with busy := true, done := false, result := .ok }

/-- The flags at a completion with result `r` (R250, R244). -/
def State.setCompleted (r : Result) (s : State) : State := { s with busy := false, done := true, result := r }

end Sys2Proof.Machine
end

