-- ==== Sys2Proof/Machine/Memory.lean ====
section
/-! DEFINITION. The one representation of a buffer's contents (10_state.md R50, R51): the written bytes as a list of
(index, byte) pairs in canonical form. -/

namespace Sys2Proof.Machine

/-- What an unlisted index holds: no value. Reading it through a buffer gives the buffer's free value (log 4). -/
def Memory.unlisted : Option Byte := none

/-- The byte written at index `i`, if any. -/
def Memory.get? : Memory → Nat → Option Byte
  | [], _ => Memory.unlisted
  | (a, b) :: rest, i => if a = i then some b else Memory.get? rest i

/-- `MemWrite(_, i, 1, v)` (00_scope.md R14): keeps the indices strictly rising. -/
def Memory.write : Memory → Nat → Byte → Memory
  | [], i, v => [(i, v)]
  | (a, b) :: rest, i, v =>
    if i < a then (i, v) :: (a, b) :: rest
    else if i = a then (i, v) :: rest
    else (a, b) :: Memory.write rest i v

/-- Writes `bs` at indices `i`, `i + 1`, ... in order (44_container.md R205). -/
def Memory.writeBytes : Memory → Nat → ByteString → Memory
  | m, _, [] => m
  | m, i, b :: bs => Memory.writeBytes (m.write i b) (i + 1) bs

/-- The canonical form: indices strictly rising. No entry equals what an unlisted index holds, since that is no value. -/
abbrev Memory.wf (m : Memory) : Prop := m.Pairwise fun x y => x.1 < y.1

/-- Every written index lies below the buffer's size. -/
abbrev Memory.below (m : Memory) (size : Nat) : Prop := ∀ c ∈ m, c.1 < size

end Sys2Proof.Machine
end

