-- ==== Sys2Proof/Machine/Operands.lean ====
section
/-! DEFINITION. Where a command's operands come from (30_encoding.md R84), the bytes a buffer read gives, and the
byte-order, bit-string and slice helpers of 00_scope.md R12 and R13. -/

namespace Sys2Proof.Machine

/-- The key byte `k8 = KEY[7:0]` (10_state.md R28, 30_encoding.md R84). -/
def keyByte (key : Word) : Byte := key.extractLsb' 0 8

/-- `BE16(x)` (R12). -/
def be16 (x : BitVec 16) : ByteString := [x.extractLsb' 8 8, x.extractLsb' 0 8]

/-- `BE32(x)` (R12). -/
def be32 (x : Word) : ByteString :=
  [x.extractLsb' 24 8, x.extractLsb' 16 8, x.extractLsb' 8 8, x.extractLsb' 0 8]

/-- `fromBE(b0, ..., bn-1)`: the sum of `b_i * 256^(n-1-i)` (R12). -/
def fromBE (bs : ByteString) : Nat := bs.foldl (fun acc b => acc * 256 + b.toNat) 0

/-- A code bit as its container byte: 0x30 for bit 0, 0x31 for bit 1 (00_scope.md R13, 30_encoding.md R93). -/
def asciiBit (b : Bool) : Byte := if b then 0x31 else 0x30

/-- `ascii(bits)` (43_bit_packer.md R169, 30_encoding.md R93). -/
def ascii (bits : BitString) : ByteString := bits.map asciiBit

/-- A structural read of `n` bytes at offset `p`: `none` exactly when it would need a byte at an index at or above the
length (44_container.md R209). -/
def slice (input : ByteString) (p n : Nat) : Option ByteString :=
  if p + n > input.length then none else some ((input.drop p).take n)

/-- `MemRead(IBUF, i, 1)`: the written byte, or the free value of an unwritten one (20_memory.md R77). -/
def State.ibufByte (s : State) (i : Nat) : Byte := (s.ibuf.get? i).getD (Config.freeIbuf s.ibufDraw i)

/-- What `OBUF[i]` holds while the core is idle: a byte of the command's output, or the free value of an unspecified one
(45_commands.md R252, 20_memory.md R77). -/
def State.obufByte (s : State) (i : Nat) : Byte := (s.obuf.get? i).getD (Config.freeObuf s.obufDraw i)

/-- `IBUF[0 .. n)`. -/
def State.ibufBytes (s : State) (n : Nat) : ByteString := (List.range n).map s.ibufByte

/-- `OBUF[0 .. n)`. -/
def State.obufBytes (s : State) (n : Nat) : ByteString := (List.range n).map s.obufByte

/-- The operand `in = IBUF[0 .. LEN)` of the running command, LEN latched (30_encoding.md R84, 20_memory.md R69). -/
def State.input (s : State) : ByteString := s.ibufBytes s.internal.len.toNat

end Sys2Proof.Machine
end

