-- ==== Sys2Proof/Machine/Ops.lean ====
section
/-! DEFINITION. The shared operations on the state: responses, result registers, START, completion with a result (the
machine's only "exception entry", 60_exceptions.md R270; there is no return operation, R271), and the reset event. -/

namespace Sys2Proof.Machine

/-- The host port gives a response (20_memory.md R61). -/
def State.respond (r : Response) (s : State) : State := { s with responses := r :: s.responses }

/-- OKAY to a write. -/
def State.okayWrite (s : State) : State := s.respond ⟨.okay, none⟩

/-- ERROR to a write: no effect but the response (60_exceptions.md R267). -/
def State.errorWrite (s : State) : State := s.respond ⟨.error, none⟩

/-- OKAY to a read, with its data. -/
def State.okayRead (data : Word) (s : State) : State := s.respond ⟨.okay, some data⟩

/-- ERROR to a read: read data 0, no effect but the response (R267). -/
def State.errorRead (s : State) : State := s.respond ⟨.error, some 0⟩

/-- The four result registers are written together (45_commands.md R250). -/
def State.setResults (outLen entries : Word) (pad : Byte) (declLen : Word) (s : State) : State :=
  { s with outLen := outLen, entries := entries, pad := pad, declLen := declLen }

/-- Every OBUF byte becomes unspecified: none is written and the draw is a new one (45_commands.md R252, log 6). -/
def State.forgetObuf (s : State) : State := { s with obuf := [], obufDraw := s.obufDraw + 1 }

/-- What START clears of the internal state (10_state.md R49), letter for letter: the other registers keep their values
until the command overwrites them. -/
def Internal.clear (n : Internal) : Internal :=
  { n with
    freq := Vector.replicate 256 0
    nodes := []
    heap := []
    code := n.code.map fun e => { e with present := false }
    rmap := []
    acc := []
    cnt := 0
    pos := 0 }

/-- LEN and k8 are latched (10_state.md R45). -/
def Internal.latch (inLen key : Word) (n : Internal) : Internal := { n with len := inLen, k8 := keyByte key }

/-- START (45_commands.md R245) of the command whose first phase is `first` (R246, R247, log 2). The result registers
keep their values. OBUF becomes unspecified, as 20_memory.md R66 lets the host see and R252 lets it stay (log 6). -/
def State.start (first : Phase) (s : State) : State :=
  let started := s.setStarted.forgetObuf
  { started with phase := first, internal := (s.internal.clear).latch s.inLen s.key }

/-- `finish(R, n)` for a non-fatal result: the completion of R250 with the command's values. -/
def State.finish (r : Result) (outLen entries : Word) (pad : Byte) (declLen : Word) (s : State) : State :=
  { (s.setResults outLen entries pad declLen).setCompleted r with phase := .idle }

/-- `raise R()` for a fatal result of ENCODE or DECODE: the completion of R250. The result registers become 0 and every
OBUF byte unspecified (R252). -/
def State.raise (r : Result) (s : State) : State :=
  { ((s.setResults 0 0 0 0).setCompleted r).forgetObuf with phase := .idle }

/-- The immediate completion of a reserved command (45_commands.md R244): IBUF, OBUF, KEY and IN_LEN are unchanged
(log 6), BUSY is never 1. -/
def State.illegalCommand (s : State) : State := (s.setResults 0 0 0 0).setCompleted .illegalCommand

/-- The reset event (70_reset_and_hazards.md R290 to R292): every register takes its reset value, a running command is
abandoned, every buffer byte is drawn afresh. What waits and what was answered stays (log 12). -/
def State.applyReset (s : State) : State :=
  { State.resetWith s.params with
    queue := s.queue
    responses := s.responses
    ibufDraw := s.ibufDraw + 1
    obufDraw := s.obufDraw + 1
    busyDraw := s.busyDraw }

/-- A CTRL write's common rule (20_memory.md R63, 45_commands.md R240): while BUSY = 1 ERROR and no effect, otherwise OKAY
and the command's own effect. -/
def State.command (effect : State → State) (s : State) : State :=
  if s.busy then s.errorWrite else (effect s).okayWrite

end Sys2Proof.Machine
end

