-- ==== Sys2Proof/Machine/Commands.lean ====
section
/-! DEFINITION. The meanings of the three command words at the CTRL write (45_commands.md R240 to R245). The rest of ENCODE
and DECODE is the core's turns of Phases.lean, as R251 lets a model split it. -/

namespace Sys2Proof.Machine

/-- NOP (R241): `skip`. -/
def execNop (s : State) : Host.Outcome State Fault Refusal := .next (s.command id)

/-- ENCODE (R240, R242): START; the core's turns begin at E_FREQ (R246). -/
def execEncode (s : State) : Host.Outcome State Fault Refusal := .next (s.command (State.start .eFreq))

/-- DECODE (R240, R243): START; the core's turns begin at D_PARSE (R247). -/
def execDecode (s : State) : Host.Outcome State Fault Refusal := .next (s.command (State.start .dParse))

/-- A CTRL write that is no legal word (R244): completes at once with ILLEGAL_COMMAND, or ERROR while busy. -/
def execIllegal (s : State) : Host.Outcome State Fault Refusal := .next (s.command State.illegalCommand)

end Sys2Proof.Machine
end

