-- ==== Sys2Proof/Machine/HostPort.lean ====
section
/-! DEFINITION. The host port (20_memory.md R60 to R67): what each transaction does and answers. -/

namespace Sys2Proof.Machine

/-- A REG access the port serves: width 32, offset a multiple of 4, at most 0x3C (R64). -/
def regAccessOk (offset : Word) (width : Nat) : Bool :=
  decide (width = 32) && decide (offset.toNat % 4 = 0) && decide (offset.toNat ≤ 0x3C)

/-- A buffer access the port serves: width 8, index below the size (R65 to R67). -/
def bufAccessOk (size index : Word) (width : Nat) : Bool :=
  decide (width = 8) && decide (index.toNat < size.toNat)

/-- The value of the register at an offset (10_state.md R22). CTRL (R23) and the reserved offsets (R38) read 0. -/
def State.readReg (s : State) (offset : Word) : Word :=
  if offset = 0x04 then s.status
  else if offset = 0x08 then s.key
  else if offset = 0x0C then s.inLen
  else if offset = 0x10 then s.outLen
  else if offset = 0x14 then s.entries
  else if offset = 0x18 then s.pad.setWidth 32
  else if offset = 0x1C then s.declLen
  else if offset = 0x20 then s.params.ibufSize
  else if offset = 0x24 then s.params.obufSize
  else if offset = 0x28 then s.params.decTableCap
  else if offset = 0x2C then s.params.decCodeCap.setWidth 32
  else 0

/-- A write that is refused while BUSY = 1 (R63, R65, 70_reset_and_hazards.md R297). -/
def State.writeIfIdle (update : State → State) (s : State) : State :=
  if s.busy then s.errorWrite else (update s).okayWrite

/-- A CTRL write: decode, then the instruction's meaning, or the illegal completion (45_commands.md R240). -/
def ctrlWrite (v : Word) (s : State) : Host.Outcome State Fault Refusal :=
  match decodeCmd v with
  | .ok i => exec i s
  | .error _ => execIllegal s

/-- A served REG write (R63). -/
def regWrite (offset v : Word) (s : State) : Host.Outcome State Fault Refusal :=
  if offset = 0x00 then ctrlWrite v s
  else if offset = 0x08 then .next (s.writeIfIdle fun t => { t with key := v })
  else if offset = 0x0C then .next (s.writeIfIdle fun t => { t with inLen := v })
  else .next s.okayWrite

/-- A served OBUF read (R66): while BUSY = 1 a fresh free value, otherwise the byte. -/
def State.readObuf (s : State) (index : Word) : State :=
  if s.busy then { s with busyDraw := s.busyDraw + 1 }.okayRead ((Config.freeBusyRead s.busyDraw).setWidth 32)
  else s.okayRead ((s.obufByte index.toNat).setWidth 32)

/-- A host transaction (R61 to R67). -/
def hostTransaction (t : Transaction) (s : State) : Host.Outcome State Fault Refusal :=
  match t with
  | .read .reg i w => if regAccessOk i w then .next (s.okayRead (s.readReg i)) else .next s.errorRead
  | .write .reg i w v => if regAccessOk i w then regWrite i v s else .next s.errorWrite
  | .read .ibuf i w =>
    if bufAccessOk s.params.ibufSize i w then .next (s.okayRead ((s.ibufByte i.toNat).setWidth 32))
    else .next s.errorRead
  | .write .ibuf i w v =>
    if bufAccessOk s.params.ibufSize i w then
      .next (s.writeIfIdle fun t => { t with ibuf := t.ibuf.write i.toNat (v.extractLsb' 0 8) })
    else .next s.errorWrite
  | .read .obuf i w => if bufAccessOk s.params.obufSize i w then .next (s.readObuf i) else .next s.errorRead
  | .write .obuf _ _ _ => .next s.errorWrite

end Sys2Proof.Machine
end

