-- ==== Sys2Proof/Machine/TreeBuilder.lean ====
section
/-! DEFINITION. The tree builder (41_tree_builder.md): frequency counter, leaves, minimum-frequency heap, merging. -/

namespace Sys2Proof.Machine

/-- All symbols in ascending order (R112: "for s in 0..255 ascending"). -/
def allSymbols : List Byte := (List.range 256).map (BitVec.ofNat 8)

/-- `FREQ[s]` (10_state.md R40). -/
def FreqTable.count (f : FreqTable) (s : Byte) : Word := f[s.toNat]'s.isLt

/-- `FREQ[b] <- FREQ[b] + 1` (R110). -/
def FreqTable.bump (f : FreqTable) (b : Byte) : FreqTable := f.set b.toNat (f.count b + 1) b.isLt

/-- FREQ_COUNT (R110): counters from 0, one pass over the input. -/
def freqCount (input : ByteString) : FreqTable := input.foldl FreqTable.bump (Vector.replicate 256 0)

/-- The symbols with a positive count, each with its count, in ascending symbol order (R111, R112). -/
def FreqTable.present (f : FreqTable) : List (Byte × Word) :=
  (allSymbols.zip f.toList).filter fun x => 0 < x.2.toNat

/-- `L`, the number of symbols with a positive count (R111). -/
def FreqTable.distinct (f : FreqTable) : Nat := f.present.length

/-- A node's frequency (10_state.md R41). -/
def Node.freq : Node → Word
  | .leaf f _ => f
  | .internal f _ _ => f

/-- The node arena and the heap over it (10_state.md R41, R42). -/
structure Forest where
  nodes : List Node
  heap : List Nat
deriving DecidableEq, Repr

/-- HEAP_INSERT (R115). -/
def heapInsert (heap : List Nat) (n : Nat) : List Nat := heap ++ [n]

/-- A new node takes the index NNODES and goes on the heap (R112, R117). -/
def Forest.add (t : Forest) (x : Node) : Forest :=
  { nodes := t.nodes ++ [x], heap := heapInsert t.heap t.nodes.length }

/-- LEAF_INIT (R112): one leaf per present symbol, in ascending symbol order. -/
def leafInit (f : FreqTable) : Forest :=
  f.present.foldl (fun t x => t.add (.leaf x.2 x.1)) ⟨[], []⟩

/-- The frequency part of `key(n)` (R113). A dangling index has frequency 0 here; `merge` stops on it. -/
def nodeFreq (nodes : List Node) (n : Nat) : Nat :=
  match nodes[n]? with
  | some x => x.freq.toNat
  | none => 0

/-- `key(a) < key(b)`, lexicographic in (frequency, index) (R113). -/
def keyLess (nodes : List Node) (a b : Nat) : Bool :=
  decide (nodeFreq nodes a < nodeFreq nodes b) || (decide (nodeFreq nodes a = nodeFreq nodes b) && decide (a < b))

/-- The member of the heap with the least key (R116). -/
def heapMin (nodes : List Node) : List Nat → Option Nat
  | [] => none
  | n :: rest =>
    match heapMin nodes rest with
    | none => some n
    | some m => if keyLess nodes m n then some m else some n

/-- HEAP_EXTRACT_MIN (R116). -/
def heapExtractMin (nodes : List Node) (heap : List Nat) : Option (Nat × List Nat) :=
  match heapMin nodes heap with
  | none => none
  | some n => some (n, heap.erase n)

/-- MERGE (R117): the first extracted is the left child, the second the right. -/
def merge (t : Forest) : Option Forest := do
  let (a, heap1) ← heapExtractMin t.nodes t.heap
  let (b, heap2) ← heapExtractMin t.nodes heap1
  let na ← t.nodes[a]?
  let nb ← t.nodes[b]?
  return Forest.add { t with heap := heap2 } (.internal (na.freq + nb.freq) a b)

/-- `while HSIZE > 1: MERGE()` (R118). Each merge shrinks the heap by one, so HSIZE rounds are enough. -/
def mergeLoop : (rounds : Nat) → Forest → Option Forest
  | 0, t => some t
  | rounds + 1, t =>
    if t.heap.length > 1 then
      match merge t with
      | none => none
      | some t' => mergeLoop rounds t'
    else some t

/-- TREE_BUILD (R118): the forest and ROOT, "the single member of HEAP". -/
def treeBuild (f : FreqTable) : Option (Forest × Nat) :=
  match mergeLoop (leafInit f).heap.length (leafInit f) with
  | none => none
  | some t =>
    match t.heap with
    | [root] => some (t, root)
    | _ => none

end Sys2Proof.Machine
end

