-- ==== Sys2Proof/Machine/CodeGenerator.lean ====
section
/-! DEFINITION. The code generator, a tree walker (42_code_generator.md). -/

namespace Sys2Proof.Machine

/-- `CODE[s]` (10_state.md R43). -/
def CodeTable.entry (t : CodeTable) (s : Byte) : CodeEntry := t[s.toNat]'s.isLt

/-- CODE_CLEAR (R140). -/
def codeClear : CodeTable := Vector.replicate 256 { present := false, len := 0, bits := [] }

/-- VISIT_LEAF (R142). -/
def visitLeaf (c : CodeTable) (sym : Byte) (p : BitString) : CodeTable :=
  c.set sym.toNat { present := true, len := BitVec.ofNat 8 p.length, bits := p } sym.isLt

/-- The walk of R141 from node `n` with prefix `p`: left appends 0, right appends 1 (R143), left first. The recursive form
is one R149 allows (log 15). `none` when a node is missing or the depth bound is spent, which no tree of R118 does. -/
def walk (nodes : List Node) : (depth n : Nat) → BitString → CodeTable → Option CodeTable
  | 0, _, _, _ => none
  | depth + 1, n, p, c =>
    match nodes[n]? with
    | none => none
    | some (.leaf _ sym) => some (visitLeaf c sym p)
    | some (.internal _ left right) =>
      match walk nodes depth left (p ++ [false]) c with
      | none => none
      | some c' => walk nodes depth right (p ++ [true]) c'

/-- CODEGEN (R141). A tree of NNODES nodes is less than NNODES deep. -/
def codeGen (nodes : List Node) (root : Nat) : Option CodeTable := walk nodes nodes.length root [] codeClear

end Sys2Proof.Machine
end

