-- ==== Sys2Proof/Machine/BitPacker.lean ====
section
/-! DEFINITION. The bit packer (43_bit_packer.md): symbol encoding, padding, packing; unpacking, trimming, greedy
decoding. -/

namespace Sys2Proof.Machine

/-- SYM_ENCODE (R160): "the concatenation of each input byte's code, in input order". -/
def symEncode (c : CodeTable) (input : ByteString) : BitString := input.flatMap fun b => (c.entry b).bits

/-- PAD_COUNT (R162). -/
def padCountOf (bitLen : Nat) : Nat := (8 - bitLen % 8) % 8

/-- A bit's number. -/
def bitValue (b : Bool) : Nat := if b then 1 else 0

/-- Eight bits as a byte, the first the most significant (30_encoding.md R95). -/
def packByte (b0 b1 b2 b3 b4 b5 b6 b7 : Bool) : Byte :=
  BitVec.ofNat 8 (bitValue b0 * 128 + bitValue b1 * 64 + bitValue b2 * 32 + bitValue b3 * 16
    + bitValue b4 * 8 + bitValue b5 * 4 + bitValue b6 * 2 + bitValue b7)

/-- The bytes of a bit string whose length is a multiple of 8 (R163). -/
def packBits : BitString → ByteString
  | b0 :: b1 :: b2 :: b3 :: b4 :: b5 :: b6 :: b7 :: rest => packByte b0 b1 b2 b3 b4 b5 b6 b7 :: packBits rest
  | _ => []

/-- PACK (R163): pad with zero bits, then group every 8. -/
def pack (bits : BitString) (padCount : Nat) : ByteString := packBits (bits ++ List.replicate padCount false)

/-- A byte's bits, the most significant first (R166). -/
def unpackByte (b : Byte) : BitString :=
  [b.getLsbD 7, b.getLsbD 6, b.getLsbD 5, b.getLsbD 4, b.getLsbD 3, b.getLsbD 2, b.getLsbD 1, b.getLsbD 0]

/-- UNPACK (R166). -/
def unpack (payload : ByteString) : BitString := payload.flatMap unpackByte

/-- TRIM (R167): drops the last `pc` bits, or all if there are fewer; `pc = 0` trims nothing. -/
def trim (bits : BitString) (pc : Nat) : BitString := if pc > 0 then bits.take (bits.length - pc) else bits

/-- The value of RMAP at a key (10_state.md R44). -/
def ReverseMap.lookup : ReverseMap → ByteString → Option Byte
  | [], _ => none
  | (k, s) :: rest, code => if k = code then some s else ReverseMap.lookup rest code

/-- MATCH (R169). -/
def matchCode (m : ReverseMap) (acc : BitString) : Option Byte := m.lookup (ascii acc)

/-- The registers of the decode loop: ACC, CNT, POS (10_state.md R47) and the OBUF it writes. -/
structure DecodeRegs where
  acc : BitString
  cnt : Nat
  pos : Nat
  obuf : Memory
deriving DecidableEq, Repr

/-- What one round of the decode loop does: go on, or end with a result. -/
inductive LoopStep where
  | again (r : DecodeRegs)
  | stop (result : Result) (r : DecodeRegs)
deriving DecidableEq, Repr

/-- One round of the loop of GREEDY_DECODE (R168); the order of the three tests is normative. -/
def greedyRound (m : ReverseMap) (bits : BitString) (declLen obufSize : Nat) (r : DecodeRegs) : LoopStep :=
  if r.cnt = declLen then .stop .ok r
  else
    match matchCode m r.acc with
    | some sym =>
      if r.cnt = obufSize then .stop .capacityExceeded r
      else .again { r with acc := [], cnt := r.cnt + 1, obuf := r.obuf.write r.cnt sym }
    | none =>
      match bits[r.pos]? with
      | none => if r.acc ≠ [] then .stop .unmappableCode r else .stop .lengthMismatch r
      | some b => .again { r with acc := r.acc ++ [b], pos := r.pos + 1 }

/-- The loop of R168. `none` when `rounds` is spent. -/
def greedyLoop (m : ReverseMap) (bits : BitString) (declLen obufSize : Nat) :
    (rounds : Nat) → DecodeRegs → Option (Result × DecodeRegs)
  | 0, _ => none
  | rounds + 1, r =>
    match greedyRound m bits declLen obufSize r with
    | .stop result r' => some (result, r')
    | .again r' => greedyLoop m bits declLen obufSize rounds r'

/-- GREEDY_DECODE (R168) from `ACC <- ""; CNT <- 0; POS <- 0`. A round emits a symbol (at most `obufSize` of them), takes a
bit (at most `B`) or ends, so `obufSize + B + 1` rounds are enough. -/
def greedyDecode (m : ReverseMap) (bits : BitString) (declLen obufSize : Nat) (obuf : Memory) :
    Option (Result × DecodeRegs) :=
  greedyLoop m bits declLen obufSize (obufSize + bits.length + 1) { acc := [], cnt := 0, pos := 0, obuf := obuf }

end Sys2Proof.Machine
end

