-- ==== Sys2Proof/Machine/Container.lean ====
section
/-! DEFINITION. The container serializer and deserializer and the XOR transform (44_container.md, 30_encoding.md R90 to
R95). -/

namespace Sys2Proof.Machine

/-- XOR_REGION (R200). -/
def xorRegion (x : ByteString) (k8 : Byte) : ByteString := x.map fun b => b ^^^ k8

/-- One table entry: symbol, BE16 length, code bytes (R202, 30_encoding.md R92, R93). -/
def serializeEntry (s : Byte) (e : CodeEntry) : ByteString := s :: (be16 (e.len.setWidth 16) ++ ascii e.bits)

/-- The present entries of the code table, in ascending symbol order (R202). -/
def CodeTable.present (t : CodeTable) : List (Byte × CodeEntry) :=
  (allSymbols.zip t.toList).filter fun x => x.2.present

/-- SERIALIZE_TABLE (R202): the entries of the present symbols in ascending order. -/
def serializeTable (c : CodeTable) (distinct : Nat) : ByteString :=
  be32 (BitVec.ofNat 32 distinct)
    ++ c.present.flatMap fun x => serializeEntry x.1 x.2

/-- SERIALIZE_REGION (R203). -/
def serializeRegion (padCount : Byte) (len : Word) (payload : ByteString) (k8 : Byte) : ByteString :=
  xorRegion (padCount :: (be32 len ++ payload)) k8

/-- A parsed table entry: the stored code bytes and the symbol (R207). -/
abbrev TableEntry := ByteString × Byte

/-- The parser's cursor `p`, its capacity flag `over` and the entries `E` so far (R207). -/
structure ParseState where
  p : Nat
  overCap : Bool
  entries : List TableEntry
deriving DecidableEq, Repr

/-- One round of PARSE_ENTRIES (R207) for entry number `e`: `none` is TRUNCATED_CONTAINER. -/
def parseEntry (tableCap codeCap : Nat) (input : ByteString) (e : Nat) (st : ParseState) : Option ParseState :=
  match slice input st.p 3 with
  | some [sym, hi, lo] =>
    let cl := fromBE [hi, lo]
    match slice input (st.p + 3) cl with
    | none => none
    | some code =>
      if e ≥ tableCap ∨ cl > codeCap then some { st with p := st.p + 3 + cl, overCap := true }
      else some { st with p := st.p + 3 + cl, entries := st.entries ++ [(code, sym)] }
  | _ => none

/-- PARSE_ENTRIES (R207): `left` entries to go, the next one numbered `e`. -/
def parseEntries (tableCap codeCap : Nat) (input : ByteString) : (left e : Nat) → ParseState → Option ParseState
  | 0, _, st => some st
  | left + 1, e, st =>
    match parseEntry tableCap codeCap input e st with
    | none => none
    | some st' => parseEntries tableCap codeCap input left (e + 1) st'

/-- What the structural parse of R206 to R208 finds. -/
structure ParsedTable where
  entryCount : Word
  overCap : Bool
  entries : List TableEntry
  rstart : Nat
  payloadLen : Nat
deriving DecidableEq, Repr

/-- PARSE_COUNT, PARSE_ENTRIES, PARSE_HEADER (R206 to R208): `none` is TRUNCATED_CONTAINER, exactly when a byte at an index
at or above LEN would be needed (R209). -/
def parseTable (tableCap codeCap : Nat) (input : ByteString) : Option ParsedTable :=
  match slice input 0 4 with
  | none => none
  | some c =>
    match parseEntries tableCap codeCap input (fromBE c) 0 { p := 4, overCap := false, entries := [] } with
    | none => none
    | some st =>
      if st.p + 5 > input.length then none
      else some
        { entryCount := BitVec.ofNat 32 (fromBE c), overCap := st.overCap, entries := st.entries, rstart := st.p,
          payloadLen := input.length - st.p - 5 }

/-- `RMAP[code] <- sym`: a later entry with the same code bytes overwrites (R213). -/
def ReverseMap.insert (m : ReverseMap) (code : ByteString) (sym : Byte) : ReverseMap :=
  (m.filter fun x => x.1 ≠ code) ++ [(code, sym)]

/-- BUILD_RMAP (R213), in container order. -/
def buildRmap (entries : List TableEntry) : ReverseMap := entries.foldl (fun m x => m.insert x.1 x.2) []

/-- DEOBFUSCATE (R211): the table bytes are not transformed. -/
def deobfuscate (input : ByteString) (rstart : Nat) (k8 : Byte) : ByteString := xorRegion (input.drop rstart) k8

/-- What READ_HEADER reads (R212). -/
structure RegionHeader where
  padCount : Byte
  declLen : Word
  payload : ByteString
deriving DecidableEq, Repr

/-- READ_HEADER (R212): no range check on either value. `none` when the region has fewer than 5 bytes, which R208 has
excluded. -/
def readHeader (region : ByteString) : Option RegionHeader :=
  match region with
  | pc :: l0 :: l1 :: l2 :: l3 :: payload =>
    some { padCount := pc, declLen := BitVec.ofNat 32 (fromBE [l0, l1, l2, l3]), payload := payload }
  | _ => none

end Sys2Proof.Machine
end

