-- ==== Sys2Proof/Machine/Phases.lean ====
section
/-! DEFINITION. The core's internal turns: one per PHASE (45_commands.md R242, R243, R246, R247, log 2). -/

namespace Sys2Proof.Machine

/-- What a core turn answers. -/
abbrev TurnOutcome := Host.Outcome State Fault Refusal

/-- E_FREQ: checks (a) and (b) of R248, "made before any unit runs", then FREQ_COUNT (R242). -/
def turnEFreq (s : State) : TurnOutcome :=
  if s.internal.len.toNat > s.params.ibufSize.toNat then .next (s.raise .capacityExceeded)
  else if s.internal.len = 0 then .next (s.raise .emptyInput)
  else .next { s with phase := .eTree, internal := { s.internal with freq := freqCount s.input } }

/-- E_TREE: TREE_BUILD (R242). -/
def turnETree (s : State) : TurnOutcome :=
  match treeBuild s.internal.freq with
  | none => .fault .treeWithoutRoot
  | some (t, root) =>
    .next { s with phase := .eCode, internal := { s.internal with nodes := t.nodes, heap := t.heap, root := root } }

/-- E_CODE: CODEGEN (R242). -/
def turnECode (s : State) : TurnOutcome :=
  match codeGen s.internal.nodes s.internal.root with
  | none => .fault .brokenTree
  | some c => .next { s with phase := .ePack, internal := { s.internal with code := c } }

/-- The registers SYM_ENCODE, PAD_COUNT and PACK write (R242). -/
def Internal.packed (n : Internal) (input : ByteString) : Internal :=
  let bits := symEncode n.code input
  let pc := padCountOf bits.length
  { n with bits := bits, bitLen := bits.length, padCount := BitVec.ofNat 8 pc, payload := pack bits pc }

/-- E_PACK: SYM_ENCODE, PAD_COUNT, PACK (R242). -/
def turnEPack (s : State) : TurnOutcome :=
  .next { s with phase := .eSer, internal := s.internal.packed s.input }

/-- The output `C = T ++ W` of 44_container.md R204. -/
def Internal.container (n : Internal) : ByteString :=
  serializeTable n.code n.freq.distinct ++ serializeRegion n.padCount n.len n.payload n.k8

/-- E_SER: SERIALIZE_TABLE, SERIALIZE_REGION, OUTPUT_CHECK (check (c)) before any OBUF write, WRITE_OUT, finish OK (R242,
44_container.md R204, R205). -/
def turnESer (s : State) : TurnOutcome :=
  let c := s.internal.container
  if c.length > s.params.obufSize.toNat then .next (s.raise .capacityExceeded)
  else
    .next (State.finish .ok (BitVec.ofNat 32 c.length) (BitVec.ofNat 32 s.internal.freq.distinct) s.internal.padCount
      s.internal.len { s with obuf := s.obuf.writeBytes 0 c })

/-- The registers D_PARSE writes (44_container.md R206 to R213). -/
def Internal.parsed (n : Internal) (t : ParsedTable) (h : RegionHeader) : Internal :=
  { n with
    entryCount := t.entryCount
    rstart := t.rstart
    payloadLen := t.payloadLen
    rmap := buildRmap t.entries
    padCount := h.padCount
    declLen := h.declLen
    payload := h.payload }

/-- D_PARSE: checks (a), (b), (c) of R249 in order, then BUILD_RMAP, DEOBFUSCATE, READ_HEADER (R243). -/
def turnDParse (s : State) : TurnOutcome :=
  if s.internal.len.toNat > s.params.ibufSize.toNat then .next (s.raise .capacityExceeded)
  else
    match parseTable s.params.decTableCap.toNat s.params.decCodeCap.toNat s.input with
    | none => .next (s.raise .truncatedContainer)
    | some t =>
      if t.overCap then .next (s.raise .capacityExceeded)
      else
        match readHeader (deobfuscate s.input t.rstart s.internal.k8) with
        | none => .next (s.raise .truncatedContainer)
        | some h => .next { s with phase := .dDecode, internal := s.internal.parsed t h }

/-- UNPACK and TRIM (R243). -/
def Internal.trimmed (n : Internal) : BitString := trim (unpack n.payload) n.padCount.toNat

/-- The registers and buffer the decode loop leaves. -/
def State.decoded (s : State) (r : DecodeRegs) : State :=
  { s with
    obuf := r.obuf
    internal := { s.internal with
      bits := s.internal.trimmed, bitLen := s.internal.trimmed.length, acc := r.acc, cnt := r.cnt, pos := r.pos } }

/-- The completion the decode loop ends in: `finish` with OUT_LEN = CNT for OK and LENGTH_MISMATCH, `raise` otherwise
(43_bit_packer.md R168, R170, R172, 45_commands.md R250). -/
def State.endDecode (result : Result) (cnt : Nat) (s : State) : State :=
  if result.fatal then s.raise result
  else s.finish result (BitVec.ofNat 32 cnt) s.internal.entryCount s.internal.padCount s.internal.declLen

/-- D_DECODE: UNPACK, TRIM, GREEDY_DECODE (R243). -/
def turnDDecode (s : State) : TurnOutcome :=
  match greedyDecode s.internal.rmap s.internal.trimmed s.internal.declLen.toNat s.params.obufSize.toNat s.obuf with
  | none => .fault .decodeLoopUnfinished
  | some (result, r) => .next (State.endDecode result r.cnt (s.decoded r))

/-- The core's turn: the present phase's work. An idle core does nothing (70_reset_and_hazards.md R293). -/
def coreTurn (s : State) : TurnOutcome :=
  match s.phase with
  | .idle => .next s
  | .eFreq => turnEFreq s
  | .eTree => turnETree s
  | .eCode => turnECode s
  | .ePack => turnEPack s
  | .eSer => turnESer s
  | .dParse => turnDParse s
  | .dDecode => turnDDecode s

end Sys2Proof.Machine
end

