-- ==== Sys2Proof/Machine/Step.lean ====
section
/-! DEFINITION. One step: the next event happens (20_memory.md R61, R70, 45_commands.md R251, 70_reset_and_hazards.md
R290). -/

namespace Sys2Proof.Machine

/-- The head of the queue happens. With nothing waiting the core takes its turn, so a running command completes (R251,
log 13) and an idle core waits (R293). -/
def step (s : State) : Host.Outcome State Fault Refusal :=
  match s.queue with
  | [] => coreTurn s
  | .coreTurn :: q => coreTurn { s with queue := q }
  | .reset :: q => .next ({ s with queue := q }.applyReset)
  | .transaction t :: q => hostTransaction t { s with queue := q }

/-- The CTRL write of the word `w` waits at the head of the queue, so the very next step runs that command (log 1). -/
def State.withFetchWord (s : State) (nbits w : Nat) : State :=
  { s with queue := .transaction (.write .reg 0x00 32 (BitVec.ofNat 32 (w % 2 ^ nbits))) :: s.queue }

end Sys2Proof.Machine
end

