-- ==== Sys2Proof/Machine/HostProgram.lean ====
section
/-! DEFINITION. The host program lines and pseudo-operations of 30_encoding.md R99 and their expansions into transactions.
A line that uses what the host read (POLL, DUMP, COPYOUT) takes it as an argument (log 11). -/

namespace Sys2Proof.Machine

/-- A line of a host program (R99). -/
inductive HostLine where
  | w32 (offset value : Word)
  | r32 (offset : Word)
  | w8Ibuf (i : Word) (byte : Byte)
  | r8Ibuf (i : Word)
  | r8Obuf (i : Word)
  | encode
  | decode
  | nop
  /-- POLL, with the number of STATUS reads its loop made. -/
  | poll (reads : Nat)
  | load (bytes : ByteString)
  | setKey (k : Int)
  /-- DUMP OBUF, with the OUT_LEN it read. -/
  | dump (outLen : Nat)
  /-- COPYOUT, with the bytes its DUMP read. -/
  | copyOut (bytes : ByteString)
deriving DecidableEq, Repr

/-- `R8 OBUF[0] ... R8 OBUF[n-1]` after `R32 REG.OUT_LEN`. -/
def dumpLines (n : Nat) : List Transaction :=
  .read .reg 0x10 32 :: (List.range n).map fun i => .read .obuf (BitVec.ofNat 32 i) 8

/-- `W8 IBUF[0], b0 ... W8 IBUF[n-1], bn-1`, then `W32 REG.IN_LEN, n`. -/
def loadLines (bytes : ByteString) : List Transaction :=
  (bytes.zipIdx.map fun (b, i) => .write .ibuf (BitVec.ofNat 32 i) 8 (b.setWidth 32))
    ++ [.write .reg 0x0C 32 (BitVec.ofNat 32 bytes.length)]

/-- The transactions a line stands for (R99). -/
def HostLine.expand : HostLine → List Transaction
  | .w32 o v => [.write .reg o 32 v]
  | .r32 o => [.read .reg o 32]
  | .w8Ibuf i b => [.write .ibuf i 8 (b.setWidth 32)]
  | .r8Ibuf i => [.read .ibuf i 8]
  | .r8Obuf i => [.read .obuf i 8]
  | .encode => [.write .reg 0x00 32 1]
  | .decode => [.write .reg 0x00 32 2]
  | .nop => [.write .reg 0x00 32 0]
  | .poll n => List.replicate n (.read .reg 0x04 32)
  | .load bytes => loadLines bytes
  | .setKey k => [.write .reg 0x08 32 (BitVec.ofInt 32 k)]
  | .dump n => dumpLines n
  | .copyOut bytes => dumpLines bytes.length ++ loadLines bytes

/-- A host program as the events the host brings, in issue order. -/
def hostEvents (program : List HostLine) : List Event := (program.flatMap HostLine.expand).map .transaction

end Sys2Proof.Machine
end

