-- ==== Sys2Proof/Machine/Codec.lean ====
section
/-! DEFINITION. ENCODE's code table and container as functions of the input and the key byte alone: the pure function of
45_commands.md R251 and R253, composed of the units the core's turns run (R242). -/

namespace Sys2Proof.Machine

/-- FREQ_COUNT, TREE_BUILD, CODEGEN in sequence (R242). -/
def codeTableOf (input : ByteString) : Option CodeTable :=
  match treeBuild (freqCount input) with
  | none => none
  | some (t, root) => codeGen t.nodes root

/-- The container `C = T ++ W` of 44_container.md R204 for an input with code table `c`, LEN being the input's length. -/
def containerWith (c : CodeTable) (input : ByteString) (k8 : Byte) : ByteString :=
  let bits := symEncode c input
  let pc := padCountOf bits.length
  serializeTable c (freqCount input).distinct
    ++ serializeRegion (BitVec.ofNat 8 pc) (BitVec.ofNat 32 input.length) (pack bits pc) k8

end Sys2Proof.Machine
end

