-- ==== Sys2Proof/Safety.lean ====
section
/-! DEFINITION. The terms of the claims: the invariant of every reachable state, how a command ends, and what a command
leaves alone. -/

namespace Sys2Proof.Machine

/-- What the finished phases of the running command have left in the internal registers (45_commands.md R242, R243). -/
def PhaseWork (s : State) : Prop :=
  match s.phase with
  | .idle => True
  | .eFreq => True
  | .eTree => s.internal.len ≠ 0 ∧ s.internal.freq = freqCount s.input
  | .eCode =>
    s.internal.len ≠ 0 ∧ s.internal.freq = freqCount s.input
      ∧ treeBuild s.internal.freq = some (⟨s.internal.nodes, s.internal.heap⟩, s.internal.root)
  | .ePack =>
    s.internal.len ≠ 0 ∧ s.internal.freq = freqCount s.input ∧ codeTableOf s.input = some s.internal.code
  | .eSer =>
    s.internal.len ≠ 0 ∧ s.internal.freq = freqCount s.input ∧ codeTableOf s.input = some s.internal.code
      ∧ s.internal = s.internal.packed s.input
  | .dParse => True
  | .dDecode =>
    ∃ t h, parseTable s.params.decTableCap.toNat s.params.decCodeCap.toNat s.input = some t ∧ t.overCap = false
      ∧ readHeader (deobfuscate s.input t.rstart s.internal.k8) = some h ∧ s.internal = s.internal.parsed t h

/-- The invariant: it holds right after reset and every step keeps it. -/
structure SafeState (s : State) : Prop where
  /-- The parameters are legal (00_scope.md R8). -/
  legal : s.params.legal = true
  /-- IBUF is in canonical form within its size (10_state.md R50). -/
  ibufWf : s.ibuf.wf
  ibufBelow : s.ibuf.below s.params.ibufSize.toNat
  /-- OBUF is in canonical form within its size (R51, 20_memory.md R69). -/
  obufWf : s.obuf.wf
  obufBelow : s.obuf.below s.params.obufSize.toNat
  /-- PHASE is "IDLE exactly when STATUS.BUSY = 0" (R46). -/
  idleIff : s.phase = .idle ↔ s.busy = false
  /-- "BUSY = 1 implies DONE = 0 and RESULT = 0" (R24). -/
  busyNotDone : s.busy = true → s.done = false
  /-- RESULT is written only with DONE, and cleared with it (R26, R27). -/
  freshResult : s.done = false → s.result = .ok
  /-- "the latched values always equal the registers during a command" (R45). -/
  latched : s.busy = true → s.internal.len = s.inLen ∧ s.internal.k8 = keyByte s.key
  /-- OUT_LEN counts bytes of OBUF (R34). -/
  outFits : s.outLen.toNat ≤ s.params.obufSize.toNat
  /-- After a fatal result the four result registers are 0 (R34 to R37). -/
  fatalZero : s.result.fatal = true → s.outLen = 0 ∧ s.entries = 0 ∧ s.pad = 0 ∧ s.declLen = 0
  /-- The internal registers hold the finished phases' work. -/
  work : PhaseWork s

/-- The machine has completed a command with result `r` and these result registers (45_commands.md R250). -/
def EndsWith (u : State) (r : Result) (outLen entries : Word) (pad : Byte) (declLen : Word) : Prop :=
  u.busy = false ∧ u.done = true ∧ u.result = r ∧ u.phase = .idle
    ∧ u.outLen = outLen ∧ u.entries = entries ∧ u.pad = pad ∧ u.declLen = declLen

/-- What no command and no core turn changes: the parameters, the command's inputs, the events that wait (60_exceptions.md
R270: "the inputs (IBUF, KEY, IN_LEN) are never changed by a command"). -/
def InputsKept (s u : State) : Prop :=
  u.params = s.params ∧ u.key = s.key ∧ u.inLen = s.inLen ∧ u.ibuf = s.ibuf ∧ u.ibufDraw = s.ibufDraw
    ∧ u.busyDraw = s.busyDraw ∧ u.queue = s.queue

/-- The four result registers keep their values. -/
def ResultsKept (s u : State) : Prop :=
  u.outLen = s.outLen ∧ u.entries = s.entries ∧ u.pad = s.pad ∧ u.declLen = s.declLen

/-- The node reached from node `n` by a bit string: bit 0 takes the left child, bit 1 the right (42_code_generator.md
R143). -/
def follow (nodes : List Node) : Nat → BitString → Option Node
  | n, [] => nodes[n]?
  | n, b :: rest =>
    match nodes[n]? with
    | some (.internal _ left right) => follow nodes (if b then right else left) rest
    | some (.leaf _ _) => none
    | none => none

/-- The event at the head of the queue is a CTRL write of the word `v`, as the port serves it. -/
def IsCtrlWrite (s : State) (v : Word) : Prop := ∃ q, s.queue = .transaction (.write .reg 0x00 32 v) :: q

/-- The next step is a core turn: nothing waits, or a turn does. -/
def IsCoreTurn (s : State) : Prop := s.queue = [] ∨ ∃ q, s.queue = .coreTurn :: q

/-- The next step is a reset. -/
def IsReset (s : State) : Prop := ∃ q, s.queue = .reset :: q

end Sys2Proof.Machine
end

