-- ==== Sys2Proof/Certificates/Slice0/Obligations.lean ====
section
/-! DEFINITION. The statements for the provers, each a def Obligations.<Name> : Prop. -/

open Sys2Proof Sys2Proof.Machine

/-! ### Command words -/

/-- The words of 30_encoding.md R82, written out, and three illegal ones of R83. -/
def Obligations.CommandWordsDecode : Prop :=
  decodeCmd 0x00000000 = .ok .nop ∧ decodeCmd 0x00000001 = .ok .encode ∧ decodeCmd 0x00000002 = .ok .decode
    ∧ decodeCmd 0x00000003 = .error .reservedCommand ∧ decodeCmd 0x00000005 = .error .reservedBits
    ∧ decodeCmd 0x80000002 = .error .reservedBits

/-- Decode and encode agree in both directions, for every instruction and every word (30_encoding.md R85, R86: "Of the
2^32 command words exactly three are legal (0, 1, 2)"). -/
def Obligations.DecodeEncodeAgree : Prop :=
  (∀ i : Instr, i.wellFormed = true ∧ decodeCmd (encode i) = .ok i)
    ∧ (∀ (v : Word) (i : Instr), decodeCmd v = .ok i → v = encode i)
    ∧ (∀ v : Word, rsvField v ≠ 0 → decodeCmd v = .error .reservedBits)
    ∧ ∀ v : Word, (∃ i, decodeCmd v = .ok i) ↔ v.toNat ≤ 2

/-- A step whose next event is a CTRL write runs the decoded instruction, or the illegal completion; while BUSY = 1 it is
refused (45_commands.md R240). The step removes the event and adds nothing else around exec. -/
def Obligations.StepRunsDecodedCommand : Prop :=
  ∀ (s : State) (v : Word) (q : List Event), s.queue = .transaction (.write .reg 0x00 32 v) :: q →
    (∀ i, decodeCmd v = .ok i → step s = exec i { s with queue := q })
      ∧ (∀ e, decodeCmd v = .error e → step s = execIllegal { s with queue := q })
      ∧ (s.busy = true →
          step s = .next { s with queue := q, responses := ⟨.error, none⟩ :: s.responses })

/-! ### Commands -/

/-- NOP (45_commands.md R241): "skip"; while busy ERROR and no effect. -/
def Obligations.NopIsSkip : Prop :=
  ∀ s : State,
    (s.busy = false → exec .nop s = .next { s with responses := ⟨.okay, none⟩ :: s.responses })
      ∧ (s.busy = true → exec .nop s = .next { s with responses := ⟨.error, none⟩ :: s.responses })

/-- The illegal completion (45_commands.md R244), for every word that is not 0, 1 or 2. -/
def Obligations.IllegalWordCompletesAtOnce : Prop :=
  ∀ (s : State) (v : Word), v ≠ 0 → v ≠ 1 → v ≠ 2 → s.busy = false →
    hostTransaction (.write .reg 0x00 32 v) s
      = .next { s with
          busy := false, done := true, result := .illegalCommand, outLen := 0, entries := 0, pad := 0, declLen := 0,
          responses := ⟨.okay, none⟩ :: s.responses }

/-- START (45_commands.md R245) of ENCODE and DECODE: what it writes, what it clears (10_state.md R49) and what it
keeps. -/
def Obligations.StartLatchesAndClears : Prop :=
  ∀ (s : State) (i : Instr), (i = .encode ∨ i = .decode) → s.busy = false →
    ∃ t, exec i s = .next t
      ∧ t.busy = true ∧ t.done = false ∧ t.result = .ok
      ∧ t.internal.len = s.inLen ∧ t.internal.k8.toNat = s.key.toNat % 256
      ∧ (∀ b : Byte, t.internal.freq.count b = 0) ∧ t.internal.nodes = [] ∧ t.internal.heap = []
      ∧ (∀ b : Byte, (t.internal.code.entry b).present = false) ∧ t.internal.rmap = []
      ∧ t.internal.acc = [] ∧ t.internal.cnt = 0 ∧ t.internal.pos = 0
      ∧ ResultsKept s t ∧ InputsKept s t ∧ t.responses = ⟨.okay, none⟩ :: s.responses

/-- The frame of every instruction, accepted or refused: it changes no input, no parameter, no result register, no byte of
IBUF and nothing that waits; a refused one changes nothing but the response. No OBUF byte is claimed kept by ENCODE and
DECODE, since the spec leaves them unspecified from then on (20_memory.md R66, 45_commands.md R252); NOP keeps them. -/
def Obligations.CommandFrame : Prop :=
  ∀ (s t : State) (i : Instr), exec i s = .next t →
    InputsKept s t ∧ ResultsKept s t ∧ (∀ n, t.ibufByte n = s.ibufByte n)
      ∧ (s.busy = true ∨ i = .nop →
          t.status = s.status ∧ t.phase = s.phase ∧ t.internal = s.internal ∧ ∀ n, t.obufByte n = s.obufByte n)

/-- A CTRL write while BUSY = 1, whatever the word, gets ERROR and changes nothing (20_memory.md R63). -/
def Obligations.BusyCommandRefused : Prop :=
  ∀ (s : State) (v : Word), s.busy = true →
    (∀ i, exec i s = .next { s with responses := ⟨.error, none⟩ :: s.responses })
      ∧ hostTransaction (.write .reg 0x00 32 v) s = .next { s with responses := ⟨.error, none⟩ :: s.responses }

/-- ENCODE from any idle state (45_commands.md R242, R248, 44_container.md R205): the command starts, five core turns end
it, and the checks decide the result in their order. After (a) and (b) the internal registers are as START left them, so
no unit has run; after (c) no OBUF byte counts as written (log 6). That five turns end it is the model's choice, not the
spec's (log 2). -/
def Obligations.EncodeChecksInOrder : Prop :=
  ∀ s : State, s.busy = false → s.queue = [] →
    ∃ t u, exec .encode s = .next t ∧ Sys2Proof.core.run 5 t = .next u ∧ InputsKept s u
      ∧ u.responses = ⟨.okay, none⟩ :: s.responses
      ∧ (s.inLen.toNat > s.params.ibufSize.toNat →
          EndsWith u .capacityExceeded 0 0 0 0 ∧ u.internal = t.internal)
      ∧ (s.inLen.toNat ≤ s.params.ibufSize.toNat → s.inLen = 0 →
          EndsWith u .emptyInput 0 0 0 0 ∧ u.internal = t.internal)
      ∧ (s.inLen.toNat ≤ s.params.ibufSize.toNat → s.inLen ≠ 0 →
          let input := s.ibufBytes s.inLen.toNat
          ∃ code, codeTableOf input = some code
            ∧ (let c := containerWith code input (keyByte s.key)
               (c.length > s.params.obufSize.toNat → EndsWith u .capacityExceeded 0 0 0 0 ∧ u.obuf = [])
                ∧ (c.length ≤ s.params.obufSize.toNat →
                    EndsWith u .ok (BitVec.ofNat 32 c.length) (BitVec.ofNat 32 (freqCount input).distinct)
                      (BitVec.ofNat 8 (padCountOf (symEncode code input).length)) s.inLen
                    ∧ u.obufBytes c.length = c)))

/-- DECODE from any idle state (45_commands.md R243, R249): the command starts, two core turns end it, and the checks
decide the result in their order; OBUF holds what the decode loop wrote. That two turns end it is the model's choice, not
the spec's (log 2). -/
def Obligations.DecodeChecksInOrder : Prop :=
  ∀ s : State, s.busy = false → s.queue = [] →
    let input := s.ibufBytes s.inLen.toNat
    let parsed := parseTable s.params.decTableCap.toNat s.params.decCodeCap.toNat input
    ∃ t u, exec .decode s = .next t ∧ Sys2Proof.core.run 2 t = .next u ∧ InputsKept s u
      ∧ u.responses = ⟨.okay, none⟩ :: s.responses
      ∧ (s.inLen.toNat > s.params.ibufSize.toNat → EndsWith u .capacityExceeded 0 0 0 0)
      ∧ (s.inLen.toNat ≤ s.params.ibufSize.toNat → parsed = none → EndsWith u .truncatedContainer 0 0 0 0)
      ∧ (s.inLen.toNat ≤ s.params.ibufSize.toNat → ∀ p, parsed = some p → p.overCap = true →
          EndsWith u .capacityExceeded 0 0 0 0)
      ∧ (s.inLen.toNat ≤ s.params.ibufSize.toNat → ∀ p, parsed = some p → p.overCap = false →
          ∃ h r d, readHeader (deobfuscate input p.rstart (keyByte s.key)) = some h
            ∧ greedyDecode (buildRmap p.entries) (trim (unpack h.payload) h.padCount.toNat) h.declLen.toNat
                s.params.obufSize.toNat [] = some (r, d)
            ∧ (r.fatal = true → EndsWith u r 0 0 0 0)
            ∧ (r.fatal = false →
                EndsWith u r (BitVec.ofNat 32 d.cnt) p.entryCount h.padCount h.declLen ∧ u.obuf = d.obuf))

/-- The phases follow each other as 45_commands.md R246 and R247 say, with no other transfer, and until the last one the
host-visible registers do not move. That START enters the first phase at once, and that one turn does one phase's work, is
the model's reading (log 2). -/
def Obligations.PhasesFollowTheSequence : Prop :=
  (∀ (s t : State) (i : Instr), s.busy = false → exec i s = .next t →
      t.phase = (match i with
        | .nop => s.phase
        | .encode => .eFreq
        | .decode => .dParse))
  ∧ ∀ s s' : State, coreTurn s = .next s' →
    InputsKept s s' ∧ s'.responses = s.responses
      ∧ (match s.phase with
        | .idle => s' = s
        | .eFreq => s'.phase = .eTree ∨ s'.phase = .idle
        | .eTree => s'.phase = .eCode
        | .eCode => s'.phase = .ePack
        | .ePack => s'.phase = .eSer
        | .eSer => s'.phase = .idle
        | .dParse => s'.phase = .dDecode ∨ s'.phase = .idle
        | .dDecode => s'.phase = .idle)
      ∧ (s'.phase ≠ .idle → s'.status = s.status ∧ ResultsKept s s' ∧ s'.obuf = s.obuf)

/-- A core turn that ends a command completes it as 45_commands.md R250 says: the flags, PHASE, and the result registers,
which are the command's values for OK and LENGTH_MISMATCH and 0 for every other result. RESULT is OK only from
CNT = declLen in DECODE or a complete write in ENCODE. -/
def Obligations.CompletionWritesResults : Prop :=
  ∀ s s' : State, s.obuf.wf → s.phase ≠ .idle → coreTurn s = .next s' → s'.phase = .idle →
    ∃ r n e p d, EndsWith s' r n e p d
      ∧ (r ≠ .ok → r ≠ .lengthMismatch → n = 0 ∧ e = 0 ∧ p = 0 ∧ d = 0)
      ∧ (r = .ok ∨ r = .lengthMismatch →
          (s.phase = .eSer ∧ r = .ok ∧ n = BitVec.ofNat 32 s.internal.container.length
              ∧ e = BitVec.ofNat 32 s.internal.freq.distinct ∧ p = s.internal.padCount ∧ d = s.internal.len
              ∧ s'.obufBytes s.internal.container.length = s.internal.container)
            ∨ (s.phase = .dDecode ∧ n = BitVec.ofNat 32 s'.internal.cnt
              ∧ e = s.internal.entryCount ∧ p = s.internal.padCount ∧ d = s.internal.declLen
              ∧ (r = .ok → s'.internal.cnt = s.internal.declLen.toNat)))

/-- Which results each command can end in: ENCODE "never raises TRUNCATED_CONTAINER, LENGTH_MISMATCH or UNMAPPABLE_CODE"
(45_commands.md R242), DECODE never EMPTY_INPUT (R243), and neither ILLEGAL_COMMAND. -/
def Obligations.ResultsOfEachCommand : Prop :=
  ∀ s s' : State, coreTurn s = .next s' → s.phase ≠ .idle → s'.phase = .idle →
    (s.phase ∈ [Phase.eFreq, .eTree, .eCode, .ePack, .eSer] →
        s'.result ∈ [Result.ok, .emptyInput, .capacityExceeded])
      ∧ (s.phase ∈ [Phase.dParse, .dDecode] →
        s'.result ∈ [Result.ok, .truncatedContainer, .lengthMismatch, .unmappableCode, .capacityExceeded])

/-! ### Status, reset, parameters -/

/-- The STATUS word (30_encoding.md R87), in every state. -/
def Obligations.StatusLayout : Prop :=
  ∀ s : State,
    s.status = (s.result.code.setWidth 32 <<< 4) ||| ((BitVec.ofBool s.done).setWidth 32 <<< 1)
        ||| (BitVec.ofBool s.busy).setWidth 32
      ∧ s.status.getLsbD 0 = s.busy ∧ s.status.getLsbD 1 = s.done
      ∧ s.status.extractLsb' 2 2 = 0 ∧ s.status.extractLsb' 4 4 = s.result.code ∧ s.status.extractLsb' 8 24 = 0

/-- The STATUS words a reachable state shows (30_encoding.md R88, its last sentence): 0x01 exactly while busy. -/
def Obligations.LegalStatusWords : Prop :=
  ∀ s : State, SafeState s →
    (s.busy = true ↔ s.status = 0x01)
      ∧ (s.busy = false → s.status ∈ [(0x00 : Word), 0x02, 0x12, 0x22, 0x32, 0x42, 0x52, 0x62])

/-- The reset values of 10_state.md R53, in an instance with any parameters. No byte of IBUF or OBUF is written: each reads
as its free value. -/
def Obligations.ResetValues : Prop :=
  ∀ p : Params,
    let s := State.resetWith p
    s.phase = .idle ∧ s.busy = false ∧ s.done = false ∧ s.result = .ok
      ∧ s.readReg 0x00 = 0 ∧ s.readReg 0x04 = 0 ∧ s.readReg 0x08 = 0 ∧ s.readReg 0x0C = 0
      ∧ s.readReg 0x10 = 0 ∧ s.readReg 0x14 = 0 ∧ s.readReg 0x18 = 0 ∧ s.readReg 0x1C = 0
      ∧ s.readReg 0x20 = p.ibufSize ∧ s.readReg 0x24 = p.obufSize ∧ s.readReg 0x28 = p.decTableCap
      ∧ s.readReg 0x2C = p.decCodeCap.setWidth 32
      ∧ s.readReg 0x30 = 0 ∧ s.readReg 0x34 = 0 ∧ s.readReg 0x38 = 0 ∧ s.readReg 0x3C = 0
      ∧ s.ibuf = [] ∧ s.obuf = []

/-- A reset at any time, a running command's included (70_reset_and_hazards.md R290, R291, R292): every register reads as
right after reset, PHASE is IDLE, no completion occurs, no byte of IBUF or OBUF counts as written any more. That each byte
then reads as a new draw of its free value is the model's form of R291 and R292 (log 4), and that what waits behind the
reset and the responses given stay is the model's choice (log 12). -/
def Obligations.ResetAbandonsTheCommand : Prop :=
  ∀ (s : State) (q : List Event), s.queue = .reset :: q →
    ∃ t, step s = .next t ∧ t.phase = .idle ∧ t.busy = false ∧ t.done = false ∧ t.result = .ok
      ∧ (∀ o : Word, t.readReg o = (State.resetWith s.params).readReg o)
      ∧ t.ibuf = [] ∧ t.obuf = [] ∧ t.ibufDraw = s.ibufDraw + 1 ∧ t.obufDraw = s.obufDraw + 1
      ∧ t.params = s.params ∧ t.queue = q ∧ t.responses = s.responses

/-- BUSY is set by the start of ENCODE or DECODE and cleared by that command's completion or by reset, and by nothing else
(10_state.md R25). -/
def Obligations.BusyChangesOnlyByStartCompletionReset : Prop :=
  (∀ (s : State) (i : Instr), (i = .encode ∨ i = .decode) → s.busy = false →
      ∃ t, exec i s = .next t ∧ t.busy = true)
    ∧ ∀ s s' : State, step s = .next s' →
      (s.busy = false → s'.busy = true →
          ∃ v, IsCtrlWrite s v ∧ (decodeCmd v = .ok .encode ∨ decodeCmd v = .ok .decode))
        ∧ (s.busy = true → s'.busy = false →
          IsReset s ∨ (IsCoreTurn s ∧ s.phase ≠ .idle ∧ s'.phase = .idle ∧ s'.done = true))
        ∧ (IsReset s → s'.busy = false)
        ∧ (IsCoreTurn s → s.phase ≠ .idle → s'.phase = .idle → s'.busy = false)

/-- DONE is cleared by the start of ENCODE or DECODE and by reset, set by every completion, the immediate completion of a
reserved command included, never cleared by a read, and unchanged by NOP (10_state.md R26). -/
def Obligations.DoneChangesOnlyByStartCompletionReset : Prop :=
  ∀ s s' : State, step s = .next s' →
    (s.done = true → s'.done = false →
        IsReset s ∨ ∃ v, IsCtrlWrite s v ∧ (decodeCmd v = .ok .encode ∨ decodeCmd v = .ok .decode))
      ∧ (s.done = false → s'.done = true →
          (IsCoreTurn s ∧ s.phase ≠ .idle ∧ s'.phase = .idle)
            ∨ ∃ v e, IsCtrlWrite s v ∧ decodeCmd v = .error e)
      ∧ (IsReset s → s'.done = false)
      ∧ (IsCoreTurn s → s.phase ≠ .idle → s'.phase = .idle → s'.done = true)
      ∧ (∀ v, IsCtrlWrite s v → s.busy = false →
          (decodeCmd v = .ok .nop → s'.done = s.done)
            ∧ ((decodeCmd v = .ok .encode ∨ decodeCmd v = .ok .decode) → s'.done = false)
            ∧ (∀ e, decodeCmd v = .error e → s'.done = true))

/-- A parameter "is fixed for one instance of the hardware" (00_scope.md R8): no step changes one. -/
def Obligations.ParametersNeverChange : Prop :=
  ∀ s s' : State, step s = .next s' → s'.params = s.params

/-! ### The host port -/

/-- A read of every register (20_memory.md R62), in any BUSY state: OKAY, the register's value, no other change. -/
def Obligations.RegisterReads : Prop :=
  ∀ s : State,
    let reads (offset value : Word) : Prop :=
      hostTransaction (.read .reg offset 32) s
        = .next { s with responses := ⟨.okay, some value⟩ :: s.responses }
    reads 0x00 0 ∧ reads 0x04 s.status ∧ reads 0x08 s.key ∧ reads 0x0C s.inLen ∧ reads 0x10 s.outLen
      ∧ reads 0x14 s.entries ∧ reads 0x18 (s.pad.setWidth 32) ∧ reads 0x1C s.declLen
      ∧ reads 0x20 s.params.ibufSize ∧ reads 0x24 s.params.obufSize ∧ reads 0x28 s.params.decTableCap
      ∧ reads 0x2C (s.params.decCodeCap.setWidth 32)
      ∧ reads 0x30 0 ∧ reads 0x34 0 ∧ reads 0x38 0 ∧ reads 0x3C 0

/-- A write of every register (20_memory.md R63): stored or a command while idle, ERROR while busy, ignored with OKAY
where the register is read-only or reserved. -/
def Obligations.RegisterWrites : Prop :=
  ∀ (s : State) (v : Word),
    (s.busy = false →
        hostTransaction (.write .reg 0x00 32 v) s = ctrlWrite v s
          ∧ hostTransaction (.write .reg 0x08 32 v) s
            = .next { s with key := v, responses := ⟨.okay, none⟩ :: s.responses }
          ∧ hostTransaction (.write .reg 0x0C 32 v) s
            = .next { s with inLen := v, responses := ⟨.okay, none⟩ :: s.responses })
      ∧ (s.busy = true → ∀ o ∈ [(0x00 : Word), 0x08, 0x0C],
          hostTransaction (.write .reg o 32 v) s = .next { s with responses := ⟨.error, none⟩ :: s.responses })
      ∧ ∀ o ∈ [(0x04 : Word), 0x10, 0x14, 0x18, 0x1C, 0x20, 0x24, 0x28, 0x2C, 0x30, 0x34, 0x38, 0x3C],
          hostTransaction (.write .reg o 32 v) s = .next { s with responses := ⟨.okay, none⟩ :: s.responses }

/-- Every ERROR response of 60_exceptions.md R267: no state change, read data 0. -/
def Obligations.RefusedAccessesChangeNothing : Prop :=
  ∀ (s : State) (i : Word) (w : Nat) (v : Word),
    let readRefused (sp : Space) : Prop :=
      hostTransaction (.read sp i w) s = .next { s with responses := ⟨.error, some 0⟩ :: s.responses }
    let writeRefused (sp : Space) : Prop :=
      hostTransaction (.write sp i w v) s = .next { s with responses := ⟨.error, none⟩ :: s.responses }
    (w ≠ 32 ∨ i.toNat % 4 ≠ 0 ∨ i.toNat > 0x3C → readRefused .reg ∧ writeRefused .reg)
      ∧ (s.busy = true → i = 0x00 ∨ i = 0x08 ∨ i = 0x0C → writeRefused .reg)
      ∧ (w ≠ 8 ∨ i.toNat ≥ s.params.ibufSize.toNat → readRefused .ibuf ∧ writeRefused .ibuf)
      ∧ (s.busy = true → writeRefused .ibuf)
      ∧ (w ≠ 8 ∨ i.toNat ≥ s.params.obufSize.toNat → readRefused .obuf)
      ∧ writeRefused .obuf

/-- Host access to IBUF (20_memory.md R65): a read gives the byte in any BUSY state; a write while idle changes exactly
that byte; a write while busy gets ERROR; so does any width but 8. -/
def Obligations.IbufHostAccess : Prop :=
  ∀ (s : State) (i v : Word), i.toNat < s.params.ibufSize.toNat →
    hostTransaction (.read .ibuf i 8) s
        = .next { s with responses := ⟨.okay, some ((s.ibufByte i.toNat).setWidth 32)⟩ :: s.responses }
      ∧ (s.busy = true →
          hostTransaction (.write .ibuf i 8 v) s = .next { s with responses := ⟨.error, none⟩ :: s.responses })
      ∧ (s.busy = false → s.ibuf.wf →
          ∃ t, hostTransaction (.write .ibuf i 8 v) s = .next t
            ∧ t = { s with ibuf := t.ibuf, responses := ⟨.okay, none⟩ :: s.responses }
            ∧ t.ibuf.wf ∧ t.ibufByte i.toNat = BitVec.ofNat 8 (v.toNat % 256)
            ∧ ∀ j, j ≠ i.toNat → t.ibufByte j = s.ibufByte j)
      ∧ ∀ w, w ≠ 8 →
          hostTransaction (.read .ibuf i w) s = .next { s with responses := ⟨.error, some 0⟩ :: s.responses }
            ∧ hostTransaction (.write .ibuf i w v) s = .next { s with responses := ⟨.error, none⟩ :: s.responses }

/-- Host access to OBUF (20_memory.md R66): a read while idle gives the byte, a read while busy an unspecified byte, a write
ERROR. The byte read while busy is a free value, of which nothing is said. That the read advances the draw counter, a field
of the model's own, is the model's choice (log 5). -/
def Obligations.ObufHostAccess : Prop :=
  ∀ (s : State) (i v : Word) (w : Nat),
    (i.toNat < s.params.obufSize.toNat →
        (s.busy = false →
            hostTransaction (.read .obuf i 8) s
              = .next { s with responses := ⟨.okay, some ((s.obufByte i.toNat).setWidth 32)⟩ :: s.responses })
          ∧ (s.busy = true →
              ∃ b : Byte, hostTransaction (.read .obuf i 8) s
                = .next { s with
                    busyDraw := s.busyDraw + 1, responses := ⟨.okay, some (b.setWidth 32)⟩ :: s.responses }))
      ∧ (w ≠ 8 →
          hostTransaction (.read .obuf i w) s = .next { s with responses := ⟨.error, some 0⟩ :: s.responses })
      ∧ hostTransaction (.write .obuf i w v) s = .next { s with responses := ⟨.error, none⟩ :: s.responses }

/-- LOAD (30_encoding.md R99) run on an idle machine puts the bytes in IBUF[0 .. n) and n in IN_LEN, gets OKAY for each
transaction, and leaves everything else alone. -/
def Obligations.LoadFillsTheInput : Prop :=
  ∀ (s : State) (bytes : ByteString), s.busy = false → s.ibuf.wf → bytes.length ≤ s.params.ibufSize.toNat →
    ∃ u, Sys2Proof.core.run (bytes.length + 1) { s with queue := hostEvents [.load bytes] } = .next u
      ∧ u.ibufBytes bytes.length = bytes ∧ u.inLen.toNat = bytes.length
      ∧ (∀ j, bytes.length ≤ j → u.ibufByte j = s.ibufByte j)
      ∧ u.responses = List.replicate (bytes.length + 1) ⟨.okay, none⟩ ++ s.responses
      ∧ u = { s with ibuf := u.ibuf, inLen := u.inLen, responses := u.responses, queue := [] }

/-! ### Tree builder and code generator -/

/-- FREQ_COUNT (41_tree_builder.md R110): after the pass each counter is the number of times its symbol occurs. -/
def Obligations.FrequencyCountsOccurrences : Prop :=
  ∀ (input : ByteString) (b : Byte), input.length < 2 ^ 32 → ((freqCount input).count b).toNat = input.count b

/-- HEAP_EXTRACT_MIN (41_tree_builder.md R116): the member with the least key of R113 is taken out and nothing else. -/
def Obligations.ExtractMinTakesTheLeastKey : Prop :=
  ∀ (nodes : List Node) (heap : List Nat), heap.Nodup → heap ≠ [] →
    ∃ n rest, heapExtractMin nodes heap = some (n, rest) ∧ n ∈ heap
      ∧ (∀ m, m ∈ rest ↔ m ∈ heap ∧ m ≠ n) ∧ rest.length + 1 = heap.length
      ∧ ∀ m ∈ rest, nodeFreq nodes n < nodeFreq nodes m ∨ (nodeFreq nodes n = nodeFreq nodes m ∧ n < m)

/-- MERGE (41_tree_builder.md R117): the two least-keyed nodes become the left and the right child of a new node that has
their frequencies' sum, takes the index NNODES and goes on the heap. -/
def Obligations.MergeJoinsTheTwoLeast : Prop :=
  ∀ t : Forest, t.heap.Nodup → (∀ n ∈ t.heap, n < t.nodes.length) → 2 ≤ t.heap.length →
    ∃ t' a b na nb, merge t = some t' ∧ a ∈ t.heap ∧ b ∈ t.heap ∧ a ≠ b
      ∧ t.nodes[a]? = some na ∧ t.nodes[b]? = some nb
      ∧ t'.nodes = t.nodes ++ [.internal (na.freq + nb.freq) a b]
      ∧ (∀ m, m ∈ t'.heap ↔ m = t.nodes.length ∨ (m ∈ t.heap ∧ m ≠ a ∧ m ≠ b))
      ∧ t'.heap.length + 1 = t.heap.length
      ∧ keyLess t.nodes a b = true ∧ ∀ m ∈ t.heap, m ≠ a → m ≠ b → keyLess t.nodes b m = true

/-- The laws of the tree (41_tree_builder.md R121, R122): 2L-1 nodes, the root last, children below their parent, every
internal frequency the sum of its children's, the root's frequency LEN. -/
def Obligations.TreeShape : Prop :=
  ∀ input : ByteString, input ≠ [] → input.length < 2 ^ 32 →
    ∃ t root, treeBuild (freqCount input) = some (t, root)
      ∧ t.nodes.length = 2 * (freqCount input).distinct - 1 ∧ root + 1 = t.nodes.length ∧ t.heap = [root]
      ∧ nodeFreq t.nodes root = input.length
      ∧ (∀ (i : Nat) (f : Word) (l r : Nat), t.nodes[i]? = some (.internal f l r) →
          l < i ∧ r < i ∧ l ≠ r ∧ f.toNat = nodeFreq t.nodes l + nodeFreq t.nodes r)

/-- The tree and the code table do not depend on the order of the input (41_tree_builder.md R124). -/
def Obligations.OrderOfInputIrrelevant : Prop :=
  ∀ a b : ByteString, a.Perm b → freqCount a = freqCount b ∧ codeTableOf a = codeTableOf b

/-- A single distinct symbol: no merge, the one leaf is ROOT = 0 (41_tree_builder.md R119), and its code is the empty bit
string (42_code_generator.md R144). -/
def Obligations.SingleSymbolHasEmptyCode : Prop :=
  ∀ (b : Byte) (n : Nat), 1 ≤ n → n < 2 ^ 32 →
    treeBuild (freqCount (List.replicate n b))
        = some ({ nodes := [.leaf (BitVec.ofNat 32 n) b], heap := [0] }, 0)
      ∧ ∃ c, codeTableOf (List.replicate n b) = some c
        ∧ c.entry b = { present := true, len := 0, bits := [] } ∧ ∀ x, x ≠ b → (c.entry x).present = false

/-- Every code is the path from the root to its symbol's leaf, 0 for left and 1 for right (42_code_generator.md R141,
R143). -/
def Obligations.CodesArePathLabels : Prop :=
  ∀ (nodes : List Node) (root : Nat) (c : CodeTable), codeGen nodes root = some c →
    ∀ b : Byte, (c.entry b).present = true → ∃ f, follow nodes root (c.entry b).bits = some (.leaf f b)

/-- The code table of a non-empty input has exactly the symbols that occur, with lengths at most L-1
(42_code_generator.md R146, R148). -/
def Obligations.CodeTableHasTheSymbolsThatOccur : Prop :=
  ∀ input : ByteString, input ≠ [] → input.length < 2 ^ 32 →
    ∃ c, codeTableOf input = some c ∧ c.present.length = (freqCount input).distinct
      ∧ ∀ b : Byte, ((c.entry b).present = true ↔ b ∈ input)
        ∧ ((c.entry b).present = true →
            (c.entry b).len.toNat = (c.entry b).bits.length
              ∧ (c.entry b).bits.length + 1 ≤ (freqCount input).distinct)

/-- The codes are pairwise prefix-free when there are at least two symbols (42_code_generator.md R145). -/
def Obligations.CodesArePrefixFree : Prop :=
  ∀ (input : ByteString) (c : CodeTable), input.length < 2 ^ 32 → 2 ≤ (freqCount input).distinct →
    codeTableOf input = some c →
    ∀ a b : Byte, a ∈ input → b ∈ input → a ≠ b →
      (c.entry a).bits ≠ [] ∧ ¬ (c.entry a).bits <+: (c.entry b).bits

/-- Completeness (42_code_generator.md R147, Kraft equality), scaled by 2^255 since no code is longer than 255 bits. -/
def Obligations.CodesAreComplete : Prop :=
  ∀ (input : ByteString) (c : CodeTable), input ≠ [] → input.length < 2 ^ 32 → codeTableOf input = some c →
    ((c.present.map fun x => 2 ^ (255 - x.2.bits.length)).sum : Nat) = 2 ^ 255

/-! ### Bit packer -/

/-- PAD_COUNT (43_bit_packer.md R162). -/
def Obligations.PadCountCompletesTheByte : Prop :=
  ∀ b : Nat, padCountOf b < 8 ∧ (b + padCountOf b) % 8 = 0 ∧ (b % 8 = 0 → padCountOf b = 0)

/-- PACK (43_bit_packer.md R163): bit 8j+t of the padded string is bit 7-t of payload byte j, and the pad bits are 0. -/
def Obligations.PackIsMostSignificantFirst : Prop :=
  ∀ bits : BitString,
    let pc := padCountOf bits.length
    let padded := bits ++ List.replicate pc false
    (pack bits pc).length = (bits.length + pc) / 8
      ∧ ∀ j t, t < 8 → j < (bits.length + pc) / 8 →
        ∃ b, (pack bits pc)[j]? = some b ∧ padded[8 * j + t]? = some (b.getLsbD (7 - t))

/-- Unpacking and trimming undo packing (43_bit_packer.md R163, R166, R167). -/
def Obligations.TrimUnpackInvertsPack : Prop :=
  ∀ bits : BitString,
    trim (unpack (pack bits (padCountOf bits.length))) (padCountOf bits.length) = bits

/-- GREEDY_DECODE always ends, and how it ends says why (43_bit_packer.md R168, R170, R172): at the declared length, at
the end of the bits with an empty or a non-empty accumulator, or at the end of OBUF. -/
def Obligations.GreedyDecodeEnds : Prop :=
  ∀ (m : ReverseMap) (bits : BitString) (declLen obufSize : Nat) (obuf : Memory),
    ∃ r d, greedyDecode m bits declLen obufSize obuf = some (r, d)
      ∧ d.cnt ≤ declLen ∧ d.cnt ≤ obufSize ∧ d.pos ≤ bits.length
      ∧ ((r = .ok ∧ d.cnt = declLen)
        ∨ (r = .lengthMismatch ∧ d.cnt < declLen ∧ d.pos = bits.length ∧ d.acc = [] ∧ matchCode m [] = none)
        ∨ (r = .unmappableCode ∧ d.cnt < declLen ∧ d.pos = bits.length ∧ d.acc ≠ [] ∧ matchCode m d.acc = none)
        ∨ (r = .capacityExceeded ∧ d.cnt < declLen ∧ d.cnt = obufSize ∧ ∃ s, matchCode m d.acc = some s))

/-- What the decode loop writes lies at OBUF indices below CNT, one byte for each, and nowhere else (43_bit_packer.md
R168). -/
def Obligations.GreedyDecodeWritesBelowCnt : Prop :=
  ∀ (m : ReverseMap) (bits : BitString) (declLen obufSize : Nat) (obuf : Memory) (r : Result) (d : DecodeRegs),
    obuf.wf → greedyDecode m bits declLen obufSize obuf = some (r, d) →
    d.obuf.wf ∧ (∀ j, j < d.cnt → ∃ code s, (code, s) ∈ m ∧ d.obuf.get? j = some s)
      ∧ ∀ j, d.cnt ≤ j → d.obuf.get? j = obuf.get? j

/-! ### Container -/

/-- XOR_REGION (44_container.md R200) and that it undoes itself (R201). -/
def Obligations.XorRegionIsItsOwnInverse : Prop :=
  ∀ (x : ByteString) (k : Byte),
    (xorRegion x k).length = x.length ∧ (∀ i : Nat, (xorRegion x k)[i]? = x[i]?.map (· ^^^ k))
      ∧ xorRegion (xorRegion x k) k = x

/-- Reading the header of a de-obfuscated region gives back what ENCODE put there (44_container.md R203, R211, R212). -/
def Obligations.RegionHeaderRoundTrip : Prop :=
  ∀ (table : ByteString) (pc k8 : Byte) (len : Word) (payload : ByteString),
    readHeader (deobfuscate (table ++ serializeRegion pc len payload k8) table.length k8)
      = some { padCount := pc, declLen := len, payload := payload }

/-- Parsing a serialized table followed by a region gives back the table's entries, for every code table with at most 256
entries whose lengths are right, at every legal capacity (44_container.md R202, R206 to R208). -/
def Obligations.ParseInvertsSerialize : Prop :=
  ∀ (p : Params) (c : CodeTable) (region : ByteString), p.legal = true →
    (∀ x ∈ c.present, x.2.len.toNat = x.2.bits.length) → 5 ≤ region.length →
    parseTable p.decTableCap.toNat p.decCodeCap.toNat (serializeTable c c.present.length ++ region)
      = some
        { entryCount := BitVec.ofNat 32 c.present.length
          overCap := false
          entries := c.present.map fun x => (ascii x.2.bits, x.1)
          rstart := (serializeTable c c.present.length).length
          payloadLen := region.length - 5 }

/-- Truncation (44_container.md R209): fewer than 9 bytes are always truncated, a successful parse needs only bytes it has
shown to exist, and bytes appended after them change nothing but the payload's length. -/
def Obligations.ParseReadsOnlyBytesItHas : Prop :=
  ∀ (tableCap codeCap : Nat) (input more : ByteString),
    (input.length < 9 → parseTable tableCap codeCap input = none)
      ∧ ∀ t, parseTable tableCap codeCap input = some t →
        t.rstart + 5 + t.payloadLen = input.length
          ∧ parseTable tableCap codeCap (input ++ more) = some { t with payloadLen := t.payloadLen + more.length }

/-- The capacity flag (44_container.md R207, R210), against a parse of the same bytes with capacities that nothing exceeds:
it is set exactly when there are more entries than DEC_TABLE_CAP or a code is longer than DEC_CODE_CAP; whether the bytes
are truncated does not depend on the capacities; and within the capacities every entry is kept. -/
def Obligations.CapacityFlagIsExact : Prop :=
  ∀ (tableCap codeCap : Nat) (input : ByteString),
    (parseTable tableCap codeCap input = none ↔ parseTable (2 ^ 32) 65535 input = none)
      ∧ ∀ t full, parseTable tableCap codeCap input = some t → parseTable (2 ^ 32) 65535 input = some full →
        full.overCap = false ∧ full.entries.length = full.entryCount.toNat
          ∧ t.entryCount = full.entryCount ∧ t.rstart = full.rstart ∧ t.payloadLen = full.payloadLen
          ∧ (t.overCap = true ↔ full.entryCount.toNat > tableCap ∨ ∃ x ∈ full.entries, x.1.length > codeCap)
          ∧ (t.overCap = false → t.entries = full.entries)

/-- BUILD_RMAP (44_container.md R213): when two entries carry the same code bytes, the later entry's symbol wins; the keys
are the code bytes as given. -/
def Obligations.LaterEntryWins : Prop :=
  ∀ (entries : List TableEntry) (code : ByteString),
    (buildRmap entries).lookup code = (entries.reverse.find? fun x => x.1 == code).map Prod.snd

/-! ### Whole commands -/

/-- Round trip (44_container.md R215): DECODE of an ENCODE output under a key with the same low byte gives the input back.
That ENCODE ends within the CTRL write and five core turns, and DECODE within the CTRL write and two, is the model's choice
(log 2). -/
def Obligations.DecodeInvertsEncode : Prop :=
  ∀ s u v : State, s.busy = false → s.queue = [] → s.params.legal = true →
    1 ≤ s.inLen.toNat → s.inLen.toNat ≤ s.params.ibufSize.toNat →
    Sys2Proof.core.run 6 (s.withFetchWord 32 1) = .next u → u.result = .ok →
    v.busy = false → v.queue = [] → v.params = s.params → v.inLen = u.outLen → keyByte v.key = keyByte s.key →
    v.ibufBytes u.outLen.toNat = u.obufBytes u.outLen.toNat →
    u.outLen.toNat ≤ s.params.ibufSize.toNat → s.inLen.toNat ≤ s.params.obufSize.toNat →
    ∃ w, Sys2Proof.core.run 3 (v.withFetchWord 32 2) = .next w
      ∧ EndsWith w .ok s.inLen u.entries u.pad s.inLen
      ∧ w.obufBytes s.inLen.toNat = s.ibufBytes s.inLen.toNat

/-- Key sensitivity (44_container.md R216): under a key with another low byte DECODE of an ENCODE output never finishes OK
with as many bytes as the input had. That ENCODE ends within the CTRL write and five core turns, and DECODE within the CTRL
write and two, is the model's choice (log 2). -/
def Obligations.WrongKeyNeverGivesTheInput : Prop :=
  ∀ s u v : State, s.busy = false → s.queue = [] → s.params.legal = true →
    1 ≤ s.inLen.toNat → s.inLen.toNat ≤ s.params.ibufSize.toNat →
    Sys2Proof.core.run 6 (s.withFetchWord 32 1) = .next u → u.result = .ok →
    v.busy = false → v.queue = [] → v.params = s.params → v.inLen = u.outLen → keyByte v.key ≠ keyByte s.key →
    v.ibufBytes u.outLen.toNat = u.obufBytes u.outLen.toNat →
    u.outLen.toNat ≤ s.params.ibufSize.toNat →
    ∃ w, Sys2Proof.core.run 3 (v.withFetchWord 32 2) = .next w ∧ w.done = true
      ∧ w.result ∈ [Result.ok, .lengthMismatch, .unmappableCode, .capacityExceeded]
      ∧ (w.result = .ok → w.outLen ≠ s.inLen)

/-- Re-entrancy (45_commands.md R253, 00_scope.md R19): the outcome of a command depends only on IBUF[0 .. IN_LEN), IN_LEN,
KEY[7:0] and the parameters at its start, never on internal state or earlier results. An IN_LEN above IBUF_SIZE needs no
byte of IBUF. That both commands end within the CTRL write and five core turns is the model's choice (log 2). -/
def Obligations.OutcomeDependsOnlyOnTheInputs : Prop :=
  ∀ (s s' : State) (i : Instr), (i = .encode ∨ i = .decode) →
    s.busy = false → s'.busy = false → s.queue = [] → s'.queue = [] →
    s.params = s'.params → s.inLen = s'.inLen → keyByte s.key = keyByte s'.key →
    (s.inLen.toNat ≤ s.params.ibufSize.toNat → s.ibufBytes s.inLen.toNat = s'.ibufBytes s'.inLen.toNat) →
    ∃ u u', Sys2Proof.core.run 6 (s.withFetchWord 32 (encode i).toNat) = .next u
      ∧ Sys2Proof.core.run 6 (s'.withFetchWord 32 (encode i).toNat) = .next u'
      ∧ EndsWith u' u.result u.outLen u.entries u.pad u.declLen ∧ u'.obuf = u.obuf

/-! ### Invariant -/

/-- The invariant holds right after reset, in every instance with legal parameters. -/
def Obligations.ResetMeetsTheInvariant : Prop :=
  SafeState State.reset ∧ ∀ p : Params, p.legal = true → SafeState (State.resetWith p)

/-- Every step keeps the invariant, whatever event comes next. -/
def Obligations.StepKeepsTheInvariant : Prop :=
  ∀ s s' : State, SafeState s → step s = .next s' → SafeState s'

/-- A machine that meets the invariant never stops: every event gets a next state, no fault and no refusal. -/
def Obligations.MachineNeverStops : Prop := ∀ s : State, SafeState s → ∃ s', step s = .next s'

/-- Every command completes (45_commands.md R251): a busy machine that meets the invariant and is left alone is idle, with
DONE set, after at most five core turns. The number is the model's (log 2). -/
def Obligations.EveryCommandCompletes : Prop :=
  ∀ s : State, SafeState s → s.busy = true → s.queue = [] →
    ∃ k u, k ≤ 5 ∧ Sys2Proof.core.run k s = .next u ∧ u.busy = false ∧ u.done = true ∧ u.phase = .idle
      ∧ InputsKept s u
end

