-- ==== Sys2Proof/Laws/State.lean ====
section
/-! SUPPORT. One lemma per field per update of State (and of Internal at START), each true by rfl, so that no later proof
unfolds a record update. -/

namespace Sys2Proof.Machine

@[simp] theorem State.respond_params (r : Response) (s : State) : (s.respond r).params = s.params := rfl
@[simp] theorem State.respond_busy (r : Response) (s : State) : (s.respond r).busy = s.busy := rfl
@[simp] theorem State.respond_done (r : Response) (s : State) : (s.respond r).done = s.done := rfl
@[simp] theorem State.respond_result (r : Response) (s : State) : (s.respond r).result = s.result := rfl
@[simp] theorem State.respond_key (r : Response) (s : State) : (s.respond r).key = s.key := rfl
@[simp] theorem State.respond_inLen (r : Response) (s : State) : (s.respond r).inLen = s.inLen := rfl
@[simp] theorem State.respond_outLen (r : Response) (s : State) : (s.respond r).outLen = s.outLen := rfl
@[simp] theorem State.respond_entries (r : Response) (s : State) : (s.respond r).entries = s.entries := rfl
@[simp] theorem State.respond_pad (r : Response) (s : State) : (s.respond r).pad = s.pad := rfl
@[simp] theorem State.respond_declLen (r : Response) (s : State) : (s.respond r).declLen = s.declLen := rfl
@[simp] theorem State.respond_ibuf (r : Response) (s : State) : (s.respond r).ibuf = s.ibuf := rfl
@[simp] theorem State.respond_obuf (r : Response) (s : State) : (s.respond r).obuf = s.obuf := rfl
@[simp] theorem State.respond_phase (r : Response) (s : State) : (s.respond r).phase = s.phase := rfl
@[simp] theorem State.respond_internal (r : Response) (s : State) : (s.respond r).internal = s.internal := rfl
@[simp] theorem State.respond_queue (r : Response) (s : State) : (s.respond r).queue = s.queue := rfl
@[simp] theorem State.respond_responses (r : Response) (s : State) : (s.respond r).responses = r :: s.responses := rfl
@[simp] theorem State.respond_ibufDraw (r : Response) (s : State) : (s.respond r).ibufDraw = s.ibufDraw := rfl
@[simp] theorem State.respond_obufDraw (r : Response) (s : State) : (s.respond r).obufDraw = s.obufDraw := rfl
@[simp] theorem State.respond_busyDraw (r : Response) (s : State) : (s.respond r).busyDraw = s.busyDraw := rfl

@[simp] theorem State.setStarted_params (s : State) : s.setStarted.params = s.params := rfl
@[simp] theorem State.setStarted_busy (s : State) : s.setStarted.busy = true := rfl
@[simp] theorem State.setStarted_done (s : State) : s.setStarted.done = false := rfl
@[simp] theorem State.setStarted_result (s : State) : s.setStarted.result = .ok := rfl
@[simp] theorem State.setStarted_key (s : State) : s.setStarted.key = s.key := rfl
@[simp] theorem State.setStarted_inLen (s : State) : s.setStarted.inLen = s.inLen := rfl
@[simp] theorem State.setStarted_outLen (s : State) : s.setStarted.outLen = s.outLen := rfl
@[simp] theorem State.setStarted_entries (s : State) : s.setStarted.entries = s.entries := rfl
@[simp] theorem State.setStarted_pad (s : State) : s.setStarted.pad = s.pad := rfl
@[simp] theorem State.setStarted_declLen (s : State) : s.setStarted.declLen = s.declLen := rfl
@[simp] theorem State.setStarted_ibuf (s : State) : s.setStarted.ibuf = s.ibuf := rfl
@[simp] theorem State.setStarted_obuf (s : State) : s.setStarted.obuf = s.obuf := rfl
@[simp] theorem State.setStarted_phase (s : State) : s.setStarted.phase = s.phase := rfl
@[simp] theorem State.setStarted_internal (s : State) : s.setStarted.internal = s.internal := rfl
@[simp] theorem State.setStarted_queue (s : State) : s.setStarted.queue = s.queue := rfl
@[simp] theorem State.setStarted_responses (s : State) : s.setStarted.responses = s.responses := rfl
@[simp] theorem State.setStarted_ibufDraw (s : State) : s.setStarted.ibufDraw = s.ibufDraw := rfl
@[simp] theorem State.setStarted_obufDraw (s : State) : s.setStarted.obufDraw = s.obufDraw := rfl
@[simp] theorem State.setStarted_busyDraw (s : State) : s.setStarted.busyDraw = s.busyDraw := rfl

@[simp] theorem State.setCompleted_params (r : Result) (s : State) : (s.setCompleted r).params = s.params := rfl
@[simp] theorem State.setCompleted_busy (r : Result) (s : State) : (s.setCompleted r).busy = false := rfl
@[simp] theorem State.setCompleted_done (r : Result) (s : State) : (s.setCompleted r).done = true := rfl
@[simp] theorem State.setCompleted_result (r : Result) (s : State) : (s.setCompleted r).result = r := rfl
@[simp] theorem State.setCompleted_key (r : Result) (s : State) : (s.setCompleted r).key = s.key := rfl
@[simp] theorem State.setCompleted_inLen (r : Result) (s : State) : (s.setCompleted r).inLen = s.inLen := rfl
@[simp] theorem State.setCompleted_outLen (r : Result) (s : State) : (s.setCompleted r).outLen = s.outLen := rfl
@[simp] theorem State.setCompleted_entries (r : Result) (s : State) : (s.setCompleted r).entries = s.entries := rfl
@[simp] theorem State.setCompleted_pad (r : Result) (s : State) : (s.setCompleted r).pad = s.pad := rfl
@[simp] theorem State.setCompleted_declLen (r : Result) (s : State) : (s.setCompleted r).declLen = s.declLen := rfl
@[simp] theorem State.setCompleted_ibuf (r : Result) (s : State) : (s.setCompleted r).ibuf = s.ibuf := rfl
@[simp] theorem State.setCompleted_obuf (r : Result) (s : State) : (s.setCompleted r).obuf = s.obuf := rfl
@[simp] theorem State.setCompleted_phase (r : Result) (s : State) : (s.setCompleted r).phase = s.phase := rfl
@[simp] theorem State.setCompleted_internal (r : Result) (s : State) : (s.setCompleted r).internal = s.internal := rfl
@[simp] theorem State.setCompleted_queue (r : Result) (s : State) : (s.setCompleted r).queue = s.queue := rfl
@[simp] theorem State.setCompleted_responses (r : Result) (s : State) : (s.setCompleted r).responses = s.responses := rfl
@[simp] theorem State.setCompleted_ibufDraw (r : Result) (s : State) : (s.setCompleted r).ibufDraw = s.ibufDraw := rfl
@[simp] theorem State.setCompleted_obufDraw (r : Result) (s : State) : (s.setCompleted r).obufDraw = s.obufDraw := rfl
@[simp] theorem State.setCompleted_busyDraw (r : Result) (s : State) : (s.setCompleted r).busyDraw = s.busyDraw := rfl

@[simp] theorem State.setResults_params (o e : Word) (p : Byte) (d : Word) (s : State) : (s.setResults o e p d).params = s.params := rfl
@[simp] theorem State.setResults_busy (o e : Word) (p : Byte) (d : Word) (s : State) : (s.setResults o e p d).busy = s.busy := rfl
@[simp] theorem State.setResults_done (o e : Word) (p : Byte) (d : Word) (s : State) : (s.setResults o e p d).done = s.done := rfl
@[simp] theorem State.setResults_result (o e : Word) (p : Byte) (d : Word) (s : State) : (s.setResults o e p d).result = s.result := rfl
@[simp] theorem State.setResults_key (o e : Word) (p : Byte) (d : Word) (s : State) : (s.setResults o e p d).key = s.key := rfl
@[simp] theorem State.setResults_inLen (o e : Word) (p : Byte) (d : Word) (s : State) : (s.setResults o e p d).inLen = s.inLen := rfl
@[simp] theorem State.setResults_outLen (o e : Word) (p : Byte) (d : Word) (s : State) : (s.setResults o e p d).outLen = o := rfl
@[simp] theorem State.setResults_entries (o e : Word) (p : Byte) (d : Word) (s : State) : (s.setResults o e p d).entries = e := rfl
@[simp] theorem State.setResults_pad (o e : Word) (p : Byte) (d : Word) (s : State) : (s.setResults o e p d).pad = p := rfl
@[simp] theorem State.setResults_declLen (o e : Word) (p : Byte) (d : Word) (s : State) : (s.setResults o e p d).declLen = d := rfl
@[simp] theorem State.setResults_ibuf (o e : Word) (p : Byte) (d : Word) (s : State) : (s.setResults o e p d).ibuf = s.ibuf := rfl
@[simp] theorem State.setResults_obuf (o e : Word) (p : Byte) (d : Word) (s : State) : (s.setResults o e p d).obuf = s.obuf := rfl
@[simp] theorem State.setResults_phase (o e : Word) (p : Byte) (d : Word) (s : State) : (s.setResults o e p d).phase = s.phase := rfl
@[simp] theorem State.setResults_internal (o e : Word) (p : Byte) (d : Word) (s : State) : (s.setResults o e p d).internal = s.internal := rfl
@[simp] theorem State.setResults_queue (o e : Word) (p : Byte) (d : Word) (s : State) : (s.setResults o e p d).queue = s.queue := rfl
@[simp] theorem State.setResults_responses (o e : Word) (p : Byte) (d : Word) (s : State) : (s.setResults o e p d).responses = s.responses := rfl
@[simp] theorem State.setResults_ibufDraw (o e : Word) (p : Byte) (d : Word) (s : State) : (s.setResults o e p d).ibufDraw = s.ibufDraw := rfl
@[simp] theorem State.setResults_obufDraw (o e : Word) (p : Byte) (d : Word) (s : State) : (s.setResults o e p d).obufDraw = s.obufDraw := rfl
@[simp] theorem State.setResults_busyDraw (o e : Word) (p : Byte) (d : Word) (s : State) : (s.setResults o e p d).busyDraw = s.busyDraw := rfl

@[simp] theorem State.forgetObuf_params (s : State) : s.forgetObuf.params = s.params := rfl
@[simp] theorem State.forgetObuf_busy (s : State) : s.forgetObuf.busy = s.busy := rfl
@[simp] theorem State.forgetObuf_done (s : State) : s.forgetObuf.done = s.done := rfl
@[simp] theorem State.forgetObuf_result (s : State) : s.forgetObuf.result = s.result := rfl
@[simp] theorem State.forgetObuf_key (s : State) : s.forgetObuf.key = s.key := rfl
@[simp] theorem State.forgetObuf_inLen (s : State) : s.forgetObuf.inLen = s.inLen := rfl
@[simp] theorem State.forgetObuf_outLen (s : State) : s.forgetObuf.outLen = s.outLen := rfl
@[simp] theorem State.forgetObuf_entries (s : State) : s.forgetObuf.entries = s.entries := rfl
@[simp] theorem State.forgetObuf_pad (s : State) : s.forgetObuf.pad = s.pad := rfl
@[simp] theorem State.forgetObuf_declLen (s : State) : s.forgetObuf.declLen = s.declLen := rfl
@[simp] theorem State.forgetObuf_ibuf (s : State) : s.forgetObuf.ibuf = s.ibuf := rfl
@[simp] theorem State.forgetObuf_obuf (s : State) : s.forgetObuf.obuf = [] := rfl
@[simp] theorem State.forgetObuf_phase (s : State) : s.forgetObuf.phase = s.phase := rfl
@[simp] theorem State.forgetObuf_internal (s : State) : s.forgetObuf.internal = s.internal := rfl
@[simp] theorem State.forgetObuf_queue (s : State) : s.forgetObuf.queue = s.queue := rfl
@[simp] theorem State.forgetObuf_responses (s : State) : s.forgetObuf.responses = s.responses := rfl
@[simp] theorem State.forgetObuf_ibufDraw (s : State) : s.forgetObuf.ibufDraw = s.ibufDraw := rfl
@[simp] theorem State.forgetObuf_obufDraw (s : State) : s.forgetObuf.obufDraw = s.obufDraw + 1 := rfl
@[simp] theorem State.forgetObuf_busyDraw (s : State) : s.forgetObuf.busyDraw = s.busyDraw := rfl

@[simp] theorem State.start_params (f : Phase) (s : State) : (s.start f).params = s.params := rfl
@[simp] theorem State.start_busy (f : Phase) (s : State) : (s.start f).busy = true := rfl
@[simp] theorem State.start_done (f : Phase) (s : State) : (s.start f).done = false := rfl
@[simp] theorem State.start_result (f : Phase) (s : State) : (s.start f).result = .ok := rfl
@[simp] theorem State.start_key (f : Phase) (s : State) : (s.start f).key = s.key := rfl
@[simp] theorem State.start_inLen (f : Phase) (s : State) : (s.start f).inLen = s.inLen := rfl
@[simp] theorem State.start_outLen (f : Phase) (s : State) : (s.start f).outLen = s.outLen := rfl
@[simp] theorem State.start_entries (f : Phase) (s : State) : (s.start f).entries = s.entries := rfl
@[simp] theorem State.start_pad (f : Phase) (s : State) : (s.start f).pad = s.pad := rfl
@[simp] theorem State.start_declLen (f : Phase) (s : State) : (s.start f).declLen = s.declLen := rfl
@[simp] theorem State.start_ibuf (f : Phase) (s : State) : (s.start f).ibuf = s.ibuf := rfl
@[simp] theorem State.start_obuf (f : Phase) (s : State) : (s.start f).obuf = [] := rfl
@[simp] theorem State.start_phase (f : Phase) (s : State) : (s.start f).phase = f := rfl
@[simp] theorem State.start_internal (f : Phase) (s : State) : (s.start f).internal = (s.internal.clear).latch s.inLen s.key := rfl
@[simp] theorem State.start_queue (f : Phase) (s : State) : (s.start f).queue = s.queue := rfl
@[simp] theorem State.start_responses (f : Phase) (s : State) : (s.start f).responses = s.responses := rfl
@[simp] theorem State.start_ibufDraw (f : Phase) (s : State) : (s.start f).ibufDraw = s.ibufDraw := rfl
@[simp] theorem State.start_obufDraw (f : Phase) (s : State) : (s.start f).obufDraw = s.obufDraw + 1 := rfl
@[simp] theorem State.start_busyDraw (f : Phase) (s : State) : (s.start f).busyDraw = s.busyDraw := rfl

@[simp] theorem State.finish_params (r : Result) (o e : Word) (p : Byte) (d : Word) (s : State) : (s.finish r o e p d).params = s.params := rfl
@[simp] theorem State.finish_busy (r : Result) (o e : Word) (p : Byte) (d : Word) (s : State) : (s.finish r o e p d).busy = false := rfl
@[simp] theorem State.finish_done (r : Result) (o e : Word) (p : Byte) (d : Word) (s : State) : (s.finish r o e p d).done = true := rfl
@[simp] theorem State.finish_result (r : Result) (o e : Word) (p : Byte) (d : Word) (s : State) : (s.finish r o e p d).result = r := rfl
@[simp] theorem State.finish_key (r : Result) (o e : Word) (p : Byte) (d : Word) (s : State) : (s.finish r o e p d).key = s.key := rfl
@[simp] theorem State.finish_inLen (r : Result) (o e : Word) (p : Byte) (d : Word) (s : State) : (s.finish r o e p d).inLen = s.inLen := rfl
@[simp] theorem State.finish_outLen (r : Result) (o e : Word) (p : Byte) (d : Word) (s : State) : (s.finish r o e p d).outLen = o := rfl
@[simp] theorem State.finish_entries (r : Result) (o e : Word) (p : Byte) (d : Word) (s : State) : (s.finish r o e p d).entries = e := rfl
@[simp] theorem State.finish_pad (r : Result) (o e : Word) (p : Byte) (d : Word) (s : State) : (s.finish r o e p d).pad = p := rfl
@[simp] theorem State.finish_declLen (r : Result) (o e : Word) (p : Byte) (d : Word) (s : State) : (s.finish r o e p d).declLen = d := rfl
@[simp] theorem State.finish_ibuf (r : Result) (o e : Word) (p : Byte) (d : Word) (s : State) : (s.finish r o e p d).ibuf = s.ibuf := rfl
@[simp] theorem State.finish_obuf (r : Result) (o e : Word) (p : Byte) (d : Word) (s : State) : (s.finish r o e p d).obuf = s.obuf := rfl
@[simp] theorem State.finish_phase (r : Result) (o e : Word) (p : Byte) (d : Word) (s : State) : (s.finish r o e p d).phase = .idle := rfl
@[simp] theorem State.finish_internal (r : Result) (o e : Word) (p : Byte) (d : Word) (s : State) : (s.finish r o e p d).internal = s.internal := rfl
@[simp] theorem State.finish_queue (r : Result) (o e : Word) (p : Byte) (d : Word) (s : State) : (s.finish r o e p d).queue = s.queue := rfl
@[simp] theorem State.finish_responses (r : Result) (o e : Word) (p : Byte) (d : Word) (s : State) : (s.finish r o e p d).responses = s.responses := rfl
@[simp] theorem State.finish_ibufDraw (r : Result) (o e : Word) (p : Byte) (d : Word) (s : State) : (s.finish r o e p d).ibufDraw = s.ibufDraw := rfl
@[simp] theorem State.finish_obufDraw (r : Result) (o e : Word) (p : Byte) (d : Word) (s : State) : (s.finish r o e p d).obufDraw = s.obufDraw := rfl
@[simp] theorem State.finish_busyDraw (r : Result) (o e : Word) (p : Byte) (d : Word) (s : State) : (s.finish r o e p d).busyDraw = s.busyDraw := rfl

@[simp] theorem State.raise_params (r : Result) (s : State) : (s.raise r).params = s.params := rfl
@[simp] theorem State.raise_busy (r : Result) (s : State) : (s.raise r).busy = false := rfl
@[simp] theorem State.raise_done (r : Result) (s : State) : (s.raise r).done = true := rfl
@[simp] theorem State.raise_result (r : Result) (s : State) : (s.raise r).result = r := rfl
@[simp] theorem State.raise_key (r : Result) (s : State) : (s.raise r).key = s.key := rfl
@[simp] theorem State.raise_inLen (r : Result) (s : State) : (s.raise r).inLen = s.inLen := rfl
@[simp] theorem State.raise_outLen (r : Result) (s : State) : (s.raise r).outLen = 0 := rfl
@[simp] theorem State.raise_entries (r : Result) (s : State) : (s.raise r).entries = 0 := rfl
@[simp] theorem State.raise_pad (r : Result) (s : State) : (s.raise r).pad = 0 := rfl
@[simp] theorem State.raise_declLen (r : Result) (s : State) : (s.raise r).declLen = 0 := rfl
@[simp] theorem State.raise_ibuf (r : Result) (s : State) : (s.raise r).ibuf = s.ibuf := rfl
@[simp] theorem State.raise_obuf (r : Result) (s : State) : (s.raise r).obuf = [] := rfl
@[simp] theorem State.raise_phase (r : Result) (s : State) : (s.raise r).phase = .idle := rfl
@[simp] theorem State.raise_internal (r : Result) (s : State) : (s.raise r).internal = s.internal := rfl
@[simp] theorem State.raise_queue (r : Result) (s : State) : (s.raise r).queue = s.queue := rfl
@[simp] theorem State.raise_responses (r : Result) (s : State) : (s.raise r).responses = s.responses := rfl
@[simp] theorem State.raise_ibufDraw (r : Result) (s : State) : (s.raise r).ibufDraw = s.ibufDraw := rfl
@[simp] theorem State.raise_obufDraw (r : Result) (s : State) : (s.raise r).obufDraw = s.obufDraw + 1 := rfl
@[simp] theorem State.raise_busyDraw (r : Result) (s : State) : (s.raise r).busyDraw = s.busyDraw := rfl

@[simp] theorem State.illegalCommand_params (s : State) : s.illegalCommand.params = s.params := rfl
@[simp] theorem State.illegalCommand_busy (s : State) : s.illegalCommand.busy = false := rfl
@[simp] theorem State.illegalCommand_done (s : State) : s.illegalCommand.done = true := rfl
@[simp] theorem State.illegalCommand_result (s : State) : s.illegalCommand.result = .illegalCommand := rfl
@[simp] theorem State.illegalCommand_key (s : State) : s.illegalCommand.key = s.key := rfl
@[simp] theorem State.illegalCommand_inLen (s : State) : s.illegalCommand.inLen = s.inLen := rfl
@[simp] theorem State.illegalCommand_outLen (s : State) : s.illegalCommand.outLen = 0 := rfl
@[simp] theorem State.illegalCommand_entries (s : State) : s.illegalCommand.entries = 0 := rfl
@[simp] theorem State.illegalCommand_pad (s : State) : s.illegalCommand.pad = 0 := rfl
@[simp] theorem State.illegalCommand_declLen (s : State) : s.illegalCommand.declLen = 0 := rfl
@[simp] theorem State.illegalCommand_ibuf (s : State) : s.illegalCommand.ibuf = s.ibuf := rfl
@[simp] theorem State.illegalCommand_obuf (s : State) : s.illegalCommand.obuf = s.obuf := rfl
@[simp] theorem State.illegalCommand_phase (s : State) : s.illegalCommand.phase = s.phase := rfl
@[simp] theorem State.illegalCommand_internal (s : State) : s.illegalCommand.internal = s.internal := rfl
@[simp] theorem State.illegalCommand_queue (s : State) : s.illegalCommand.queue = s.queue := rfl
@[simp] theorem State.illegalCommand_responses (s : State) : s.illegalCommand.responses = s.responses := rfl
@[simp] theorem State.illegalCommand_ibufDraw (s : State) : s.illegalCommand.ibufDraw = s.ibufDraw := rfl
@[simp] theorem State.illegalCommand_obufDraw (s : State) : s.illegalCommand.obufDraw = s.obufDraw := rfl
@[simp] theorem State.illegalCommand_busyDraw (s : State) : s.illegalCommand.busyDraw = s.busyDraw := rfl

@[simp] theorem State.applyReset_params (s : State) : s.applyReset.params = s.params := rfl
@[simp] theorem State.applyReset_busy (s : State) : s.applyReset.busy = false := rfl
@[simp] theorem State.applyReset_done (s : State) : s.applyReset.done = false := rfl
@[simp] theorem State.applyReset_result (s : State) : s.applyReset.result = .ok := rfl
@[simp] theorem State.applyReset_key (s : State) : s.applyReset.key = 0 := rfl
@[simp] theorem State.applyReset_inLen (s : State) : s.applyReset.inLen = 0 := rfl
@[simp] theorem State.applyReset_outLen (s : State) : s.applyReset.outLen = 0 := rfl
@[simp] theorem State.applyReset_entries (s : State) : s.applyReset.entries = 0 := rfl
@[simp] theorem State.applyReset_pad (s : State) : s.applyReset.pad = 0 := rfl
@[simp] theorem State.applyReset_declLen (s : State) : s.applyReset.declLen = 0 := rfl
@[simp] theorem State.applyReset_ibuf (s : State) : s.applyReset.ibuf = [] := rfl
@[simp] theorem State.applyReset_obuf (s : State) : s.applyReset.obuf = [] := rfl
@[simp] theorem State.applyReset_phase (s : State) : s.applyReset.phase = .idle := rfl
@[simp] theorem State.applyReset_internal (s : State) : s.applyReset.internal = Internal.reset := rfl
@[simp] theorem State.applyReset_queue (s : State) : s.applyReset.queue = s.queue := rfl
@[simp] theorem State.applyReset_responses (s : State) : s.applyReset.responses = s.responses := rfl
@[simp] theorem State.applyReset_ibufDraw (s : State) : s.applyReset.ibufDraw = s.ibufDraw + 1 := rfl
@[simp] theorem State.applyReset_obufDraw (s : State) : s.applyReset.obufDraw = s.obufDraw + 1 := rfl
@[simp] theorem State.applyReset_busyDraw (s : State) : s.applyReset.busyDraw = s.busyDraw := rfl

@[simp] theorem Internal.clear_freq (n : Internal) : n.clear.freq = Vector.replicate 256 0 := rfl
@[simp] theorem Internal.clear_nodes (n : Internal) : n.clear.nodes = [] := rfl
@[simp] theorem Internal.clear_root (n : Internal) : n.clear.root = n.root := rfl
@[simp] theorem Internal.clear_heap (n : Internal) : n.clear.heap = [] := rfl
@[simp] theorem Internal.clear_code (n : Internal) : n.clear.code = n.code.map fun e => { e with present := false } := rfl
@[simp] theorem Internal.clear_rmap (n : Internal) : n.clear.rmap = [] := rfl
@[simp] theorem Internal.clear_len (n : Internal) : n.clear.len = n.len := rfl
@[simp] theorem Internal.clear_k8 (n : Internal) : n.clear.k8 = n.k8 := rfl
@[simp] theorem Internal.clear_bits (n : Internal) : n.clear.bits = n.bits := rfl
@[simp] theorem Internal.clear_bitLen (n : Internal) : n.clear.bitLen = n.bitLen := rfl
@[simp] theorem Internal.clear_padCount (n : Internal) : n.clear.padCount = n.padCount := rfl
@[simp] theorem Internal.clear_payload (n : Internal) : n.clear.payload = n.payload := rfl
@[simp] theorem Internal.clear_acc (n : Internal) : n.clear.acc = [] := rfl
@[simp] theorem Internal.clear_cnt (n : Internal) : n.clear.cnt = 0 := rfl
@[simp] theorem Internal.clear_pos (n : Internal) : n.clear.pos = 0 := rfl
@[simp] theorem Internal.clear_entryCount (n : Internal) : n.clear.entryCount = n.entryCount := rfl
@[simp] theorem Internal.clear_declLen (n : Internal) : n.clear.declLen = n.declLen := rfl
@[simp] theorem Internal.clear_rstart (n : Internal) : n.clear.rstart = n.rstart := rfl
@[simp] theorem Internal.clear_payloadLen (n : Internal) : n.clear.payloadLen = n.payloadLen := rfl

@[simp] theorem Internal.latch_freq (l k : Word) (n : Internal) : (n.latch l k).freq = n.freq := rfl
@[simp] theorem Internal.latch_nodes (l k : Word) (n : Internal) : (n.latch l k).nodes = n.nodes := rfl
@[simp] theorem Internal.latch_root (l k : Word) (n : Internal) : (n.latch l k).root = n.root := rfl
@[simp] theorem Internal.latch_heap (l k : Word) (n : Internal) : (n.latch l k).heap = n.heap := rfl
@[simp] theorem Internal.latch_code (l k : Word) (n : Internal) : (n.latch l k).code = n.code := rfl
@[simp] theorem Internal.latch_rmap (l k : Word) (n : Internal) : (n.latch l k).rmap = n.rmap := rfl
@[simp] theorem Internal.latch_len (l k : Word) (n : Internal) : (n.latch l k).len = l := rfl
@[simp] theorem Internal.latch_k8 (l k : Word) (n : Internal) : (n.latch l k).k8 = keyByte k := rfl
@[simp] theorem Internal.latch_bits (l k : Word) (n : Internal) : (n.latch l k).bits = n.bits := rfl
@[simp] theorem Internal.latch_bitLen (l k : Word) (n : Internal) : (n.latch l k).bitLen = n.bitLen := rfl
@[simp] theorem Internal.latch_padCount (l k : Word) (n : Internal) : (n.latch l k).padCount = n.padCount := rfl
@[simp] theorem Internal.latch_payload (l k : Word) (n : Internal) : (n.latch l k).payload = n.payload := rfl
@[simp] theorem Internal.latch_acc (l k : Word) (n : Internal) : (n.latch l k).acc = n.acc := rfl
@[simp] theorem Internal.latch_cnt (l k : Word) (n : Internal) : (n.latch l k).cnt = n.cnt := rfl
@[simp] theorem Internal.latch_pos (l k : Word) (n : Internal) : (n.latch l k).pos = n.pos := rfl
@[simp] theorem Internal.latch_entryCount (l k : Word) (n : Internal) : (n.latch l k).entryCount = n.entryCount := rfl
@[simp] theorem Internal.latch_declLen (l k : Word) (n : Internal) : (n.latch l k).declLen = n.declLen := rfl
@[simp] theorem Internal.latch_rstart (l k : Word) (n : Internal) : (n.latch l k).rstart = n.rstart := rfl
@[simp] theorem Internal.latch_payloadLen (l k : Word) (n : Internal) : (n.latch l k).payloadLen = n.payloadLen := rfl

@[simp] theorem Internal.parsed_freq (t : ParsedTable) (h : RegionHeader) (n : Internal) : (n.parsed t h).freq = n.freq := rfl
@[simp] theorem Internal.parsed_nodes (t : ParsedTable) (h : RegionHeader) (n : Internal) : (n.parsed t h).nodes = n.nodes := rfl
@[simp] theorem Internal.parsed_root (t : ParsedTable) (h : RegionHeader) (n : Internal) : (n.parsed t h).root = n.root := rfl
@[simp] theorem Internal.parsed_heap (t : ParsedTable) (h : RegionHeader) (n : Internal) : (n.parsed t h).heap = n.heap := rfl
@[simp] theorem Internal.parsed_code (t : ParsedTable) (h : RegionHeader) (n : Internal) : (n.parsed t h).code = n.code := rfl
@[simp] theorem Internal.parsed_rmap (t : ParsedTable) (h : RegionHeader) (n : Internal) : (n.parsed t h).rmap = buildRmap t.entries := rfl
@[simp] theorem Internal.parsed_len (t : ParsedTable) (h : RegionHeader) (n : Internal) : (n.parsed t h).len = n.len := rfl
@[simp] theorem Internal.parsed_k8 (t : ParsedTable) (h : RegionHeader) (n : Internal) : (n.parsed t h).k8 = n.k8 := rfl
@[simp] theorem Internal.parsed_bits (t : ParsedTable) (h : RegionHeader) (n : Internal) : (n.parsed t h).bits = n.bits := rfl
@[simp] theorem Internal.parsed_bitLen (t : ParsedTable) (h : RegionHeader) (n : Internal) : (n.parsed t h).bitLen = n.bitLen := rfl
@[simp] theorem Internal.parsed_padCount (t : ParsedTable) (h : RegionHeader) (n : Internal) : (n.parsed t h).padCount = h.padCount := rfl
@[simp] theorem Internal.parsed_payload (t : ParsedTable) (h : RegionHeader) (n : Internal) : (n.parsed t h).payload = h.payload := rfl
@[simp] theorem Internal.parsed_acc (t : ParsedTable) (h : RegionHeader) (n : Internal) : (n.parsed t h).acc = n.acc := rfl
@[simp] theorem Internal.parsed_cnt (t : ParsedTable) (h : RegionHeader) (n : Internal) : (n.parsed t h).cnt = n.cnt := rfl
@[simp] theorem Internal.parsed_pos (t : ParsedTable) (h : RegionHeader) (n : Internal) : (n.parsed t h).pos = n.pos := rfl
@[simp] theorem Internal.parsed_entryCount (t : ParsedTable) (h : RegionHeader) (n : Internal) : (n.parsed t h).entryCount = t.entryCount := rfl
@[simp] theorem Internal.parsed_declLen (t : ParsedTable) (h : RegionHeader) (n : Internal) : (n.parsed t h).declLen = h.declLen := rfl
@[simp] theorem Internal.parsed_rstart (t : ParsedTable) (h : RegionHeader) (n : Internal) : (n.parsed t h).rstart = t.rstart := rfl
@[simp] theorem Internal.parsed_payloadLen (t : ParsedTable) (h : RegionHeader) (n : Internal) : (n.parsed t h).payloadLen = t.payloadLen := rfl

@[simp] theorem Internal.packed_freq (input : ByteString) (n : Internal) : (n.packed input).freq = n.freq := rfl
@[simp] theorem Internal.packed_nodes (input : ByteString) (n : Internal) : (n.packed input).nodes = n.nodes := rfl
@[simp] theorem Internal.packed_root (input : ByteString) (n : Internal) : (n.packed input).root = n.root := rfl
@[simp] theorem Internal.packed_heap (input : ByteString) (n : Internal) : (n.packed input).heap = n.heap := rfl
@[simp] theorem Internal.packed_code (input : ByteString) (n : Internal) : (n.packed input).code = n.code := rfl
@[simp] theorem Internal.packed_rmap (input : ByteString) (n : Internal) : (n.packed input).rmap = n.rmap := rfl
@[simp] theorem Internal.packed_len (input : ByteString) (n : Internal) : (n.packed input).len = n.len := rfl
@[simp] theorem Internal.packed_k8 (input : ByteString) (n : Internal) : (n.packed input).k8 = n.k8 := rfl
@[simp] theorem Internal.packed_bits (input : ByteString) (n : Internal) : (n.packed input).bits = symEncode n.code input := rfl
@[simp] theorem Internal.packed_bitLen (input : ByteString) (n : Internal) : (n.packed input).bitLen = (symEncode n.code input).length := rfl
@[simp] theorem Internal.packed_padCount (input : ByteString) (n : Internal) : (n.packed input).padCount = BitVec.ofNat 8 (padCountOf (symEncode n.code input).length) := rfl
@[simp] theorem Internal.packed_payload (input : ByteString) (n : Internal) : (n.packed input).payload = pack (symEncode n.code input) (padCountOf (symEncode n.code input).length) := rfl
@[simp] theorem Internal.packed_acc (input : ByteString) (n : Internal) : (n.packed input).acc = n.acc := rfl
@[simp] theorem Internal.packed_cnt (input : ByteString) (n : Internal) : (n.packed input).cnt = n.cnt := rfl
@[simp] theorem Internal.packed_pos (input : ByteString) (n : Internal) : (n.packed input).pos = n.pos := rfl
@[simp] theorem Internal.packed_entryCount (input : ByteString) (n : Internal) : (n.packed input).entryCount = n.entryCount := rfl
@[simp] theorem Internal.packed_declLen (input : ByteString) (n : Internal) : (n.packed input).declLen = n.declLen := rfl
@[simp] theorem Internal.packed_rstart (input : ByteString) (n : Internal) : (n.packed input).rstart = n.rstart := rfl
@[simp] theorem Internal.packed_payloadLen (input : ByteString) (n : Internal) : (n.packed input).payloadLen = n.payloadLen := rfl

@[simp] theorem State.resetWith_params (p : Params) : (State.resetWith p).params = p := rfl
@[simp] theorem State.resetWith_busy (p : Params) : (State.resetWith p).busy = false := rfl
@[simp] theorem State.resetWith_done (p : Params) : (State.resetWith p).done = false := rfl
@[simp] theorem State.resetWith_result (p : Params) : (State.resetWith p).result = .ok := rfl
@[simp] theorem State.resetWith_key (p : Params) : (State.resetWith p).key = 0 := rfl
@[simp] theorem State.resetWith_inLen (p : Params) : (State.resetWith p).inLen = 0 := rfl
@[simp] theorem State.resetWith_outLen (p : Params) : (State.resetWith p).outLen = 0 := rfl
@[simp] theorem State.resetWith_entries (p : Params) : (State.resetWith p).entries = 0 := rfl
@[simp] theorem State.resetWith_pad (p : Params) : (State.resetWith p).pad = 0 := rfl
@[simp] theorem State.resetWith_declLen (p : Params) : (State.resetWith p).declLen = 0 := rfl
@[simp] theorem State.resetWith_ibuf (p : Params) : (State.resetWith p).ibuf = [] := rfl
@[simp] theorem State.resetWith_obuf (p : Params) : (State.resetWith p).obuf = [] := rfl
@[simp] theorem State.resetWith_phase (p : Params) : (State.resetWith p).phase = .idle := rfl
@[simp] theorem State.resetWith_internal (p : Params) : (State.resetWith p).internal = Internal.reset := rfl
@[simp] theorem State.resetWith_queue (p : Params) : (State.resetWith p).queue = [] := rfl
@[simp] theorem State.resetWith_responses (p : Params) : (State.resetWith p).responses = [] := rfl
@[simp] theorem State.resetWith_ibufDraw (p : Params) : (State.resetWith p).ibufDraw = 0 := rfl
@[simp] theorem State.resetWith_obufDraw (p : Params) : (State.resetWith p).obufDraw = 0 := rfl
@[simp] theorem State.resetWith_busyDraw (p : Params) : (State.resetWith p).busyDraw = 0 := rfl

@[simp] theorem State.withFetchWord_params (nbits w : Nat) (s : State) :
    (s.withFetchWord nbits w).params = s.params := rfl
@[simp] theorem State.withFetchWord_busy (nbits w : Nat) (s : State) :
    (s.withFetchWord nbits w).busy = s.busy := rfl
@[simp] theorem State.withFetchWord_done (nbits w : Nat) (s : State) :
    (s.withFetchWord nbits w).done = s.done := rfl
@[simp] theorem State.withFetchWord_result (nbits w : Nat) (s : State) :
    (s.withFetchWord nbits w).result = s.result := rfl
@[simp] theorem State.withFetchWord_key (nbits w : Nat) (s : State) :
    (s.withFetchWord nbits w).key = s.key := rfl
@[simp] theorem State.withFetchWord_inLen (nbits w : Nat) (s : State) :
    (s.withFetchWord nbits w).inLen = s.inLen := rfl
@[simp] theorem State.withFetchWord_outLen (nbits w : Nat) (s : State) :
    (s.withFetchWord nbits w).outLen = s.outLen := rfl
@[simp] theorem State.withFetchWord_entries (nbits w : Nat) (s : State) :
    (s.withFetchWord nbits w).entries = s.entries := rfl
@[simp] theorem State.withFetchWord_pad (nbits w : Nat) (s : State) :
    (s.withFetchWord nbits w).pad = s.pad := rfl
@[simp] theorem State.withFetchWord_declLen (nbits w : Nat) (s : State) :
    (s.withFetchWord nbits w).declLen = s.declLen := rfl
@[simp] theorem State.withFetchWord_ibuf (nbits w : Nat) (s : State) :
    (s.withFetchWord nbits w).ibuf = s.ibuf := rfl
@[simp] theorem State.withFetchWord_obuf (nbits w : Nat) (s : State) :
    (s.withFetchWord nbits w).obuf = s.obuf := rfl
@[simp] theorem State.withFetchWord_phase (nbits w : Nat) (s : State) :
    (s.withFetchWord nbits w).phase = s.phase := rfl
@[simp] theorem State.withFetchWord_internal (nbits w : Nat) (s : State) :
    (s.withFetchWord nbits w).internal = s.internal := rfl
@[simp] theorem State.withFetchWord_queue (nbits w : Nat) (s : State) :
    (s.withFetchWord nbits w).queue = .transaction (.write .reg 0x00 32 (BitVec.ofNat 32 (w % 2 ^ nbits))) :: s.queue := rfl
@[simp] theorem State.withFetchWord_responses (nbits w : Nat) (s : State) :
    (s.withFetchWord nbits w).responses = s.responses := rfl
@[simp] theorem State.withFetchWord_ibufDraw (nbits w : Nat) (s : State) :
    (s.withFetchWord nbits w).ibufDraw = s.ibufDraw := rfl
@[simp] theorem State.withFetchWord_obufDraw (nbits w : Nat) (s : State) :
    (s.withFetchWord nbits w).obufDraw = s.obufDraw := rfl
@[simp] theorem State.withFetchWord_busyDraw (nbits w : Nat) (s : State) :
    (s.withFetchWord nbits w).busyDraw = s.busyDraw := rfl

end Sys2Proof.Machine
end

