-- ==== Sys2Proof/Laws/Memory.lean ====
section
/-! SUPPORT. The laws of a buffer's memory: read after write, and that every operation keeps the canonical form and the
bounds. -/

namespace Sys2Proof.Machine

@[simp] theorem Memory.get?_nil (i : Nat) : Memory.get? [] i = none := rfl

theorem Memory.get?_cons (a : Nat) (b : Byte) (m : Memory) (i : Nat) :
    Memory.get? ((a, b) :: m) i = if a = i then some b else m.get? i := rfl

/-- An index below every listed one is not listed. -/
theorem Memory.get?_of_lt {m : Memory} {i : Nat} (h : ∀ c ∈ m, i < c.1) : m.get? i = none := by
  induction m with
  | nil => rfl
  | cons c m ih =>
    obtain ⟨a, b⟩ := c
    have ha : i < a := h (a, b) (by simp)
    rw [get?_cons, if_neg (by omega)]
    exact ih fun c hc => h c (by simp [hc])

theorem Memory.get?_write_same (m : Memory) (i : Nat) (v : Byte) : (m.write i v).get? i = some v := by
  induction m with
  | nil => simp [write, get?_cons]
  | cons c m ih =>
    obtain ⟨a, b⟩ := c
    unfold write
    split
    · simp [get?_cons]
    · split
      · simp [get?_cons]
      · rw [get?_cons, if_neg (by omega), ih]

theorem Memory.get?_write_other {m : Memory} (hm : m.wf) {i j : Nat} (v : Byte) (hij : j ≠ i) :
    (m.write i v).get? j = m.get? j := by
  induction m with
  | nil => simp [write, get?_cons, Ne.symm hij]
  | cons c m ih =>
    obtain ⟨a, b⟩ := c
    have ⟨_, hm'⟩ := List.pairwise_cons.mp hm
    unfold write
    split
    · rw [get?_cons, if_neg (Ne.symm hij)]
    · split
      · rename_i _ hia
        subst hia
        rw [get?_cons, get?_cons, if_neg (Ne.symm hij), if_neg (Ne.symm hij)]
      · rw [get?_cons, get?_cons, ih hm']

/-- What a write lists: the cell itself or a cell that was listed. -/
theorem Memory.mem_write {m : Memory} {i : Nat} {v : Byte} {c : Host.Cell} (h : c ∈ m.write i v) :
    c = (i, v) ∨ c ∈ m := by
  induction m with
  | nil => simpa [write] using h
  | cons d m ih =>
    obtain ⟨a, b⟩ := d
    unfold write at h
    split at h
    · simpa using h
    · split at h
      · rcases List.mem_cons.mp h with h | h
        · exact .inl h
        · exact .inr (by simp [h])
      · rcases List.mem_cons.mp h with h | h
        · exact .inr (by simp [h])
        · rcases ih h with h | h
          · exact .inl h
          · exact .inr (by simp [h])

theorem Memory.wf_write {m : Memory} (hm : m.wf) (i : Nat) (v : Byte) : (m.write i v).wf := by
  induction m with
  | nil => simp [write, wf]
  | cons c m ih =>
    obtain ⟨a, b⟩ := c
    have ⟨ha, hm'⟩ := List.pairwise_cons.mp hm
    unfold write
    split
    · refine List.pairwise_cons.mpr ⟨fun d hd => ?_, hm⟩
      rcases List.mem_cons.mp hd with rfl | hd
      · assumption
      · have := ha d hd
        simp only at this ⊢
        omega
    · split
      · rename_i _ hia
        subst hia
        exact List.pairwise_cons.mpr ⟨ha, hm'⟩
      · refine List.pairwise_cons.mpr ⟨fun d hd => ?_, ih hm'⟩
        rcases mem_write hd with rfl | hd
        · simp only
          omega
        · exact ha d hd

theorem Memory.below_write {m : Memory} {size i : Nat} (hm : m.below size) (hi : i < size) (v : Byte) :
    (m.write i v).below size := by
  intro c hc
  rcases mem_write hc with rfl | hc
  · exact hi
  · exact hm c hc

theorem Memory.wf_writeBytes {m : Memory} (hm : m.wf) (i : Nat) (bs : ByteString) : (m.writeBytes i bs).wf := by
  induction bs generalizing m i with
  | nil => exact hm
  | cons b bs ih => exact ih (wf_write hm i b) (i + 1)

theorem Memory.below_writeBytes {m : Memory} {size i : Nat} {bs : ByteString} (hm : m.below size)
    (hi : i + bs.length ≤ size) : (m.writeBytes i bs).below size := by
  induction bs generalizing m i with
  | nil => exact hm
  | cons b bs ih =>
    simp only [List.length_cons] at hi
    exact ih (below_write hm (by omega) b) (by omega)

/-- Writing a byte string leaves every index outside it alone and puts each byte in its place. -/
theorem Memory.get?_writeBytes {m : Memory} (hm : m.wf) (i : Nat) (bs : ByteString) (j : Nat) :
    (m.writeBytes i bs).get? j = if i ≤ j ∧ j < i + bs.length then bs[j - i]? else m.get? j := by
  induction bs generalizing m i with
  | nil =>
    rw [if_neg (by simp only [List.length_nil]; omega)]
    rfl
  | cons b bs ih =>
    simp only [writeBytes, ih (wf_write hm i b), List.length_cons]
    by_cases h : j = i
    · subst h
      simp [get?_write_same]
    · rw [get?_write_other hm b h]
      by_cases h1 : i + 1 ≤ j ∧ j < i + 1 + bs.length
      · rw [if_pos h1, if_pos (by omega), show j - i = (j - (i + 1)) + 1 by omega, List.getElem?_cons_succ]
      · rw [if_neg h1, if_neg (by omega)]

/-- Right after reset both buffers list nothing, in canonical form. -/
theorem resetWith_memory_wf (p : Params) : (State.resetWith p).ibuf.wf ∧ (State.resetWith p).obuf.wf := by
  simp [Memory.wf]

theorem State.ibufByte_write {s : State} (hs : s.ibuf.wf) (i j : Nat) (v : Byte) :
    State.ibufByte { s with ibuf := s.ibuf.write i v } j = if j = i then v else s.ibufByte j := by
  unfold State.ibufByte
  split
  · next h => subst h; simp [Memory.get?_write_same]
  · next h => simp [Memory.get?_write_other hs v h]

end Sys2Proof.Machine
end

