-- ==== Sys2Proof/Laws/Codec.lean ====
section
/-! SUPPORT. Small laws of the units: frequency table, forest, code table, parser slices, decode loop. -/

namespace Sys2Proof.Machine

theorem allSymbols_length : allSymbols.length = 256 := by simp [allSymbols]

theorem mem_allSymbols (s : Byte) : s ∈ allSymbols := by
  simp only [allSymbols, List.mem_map, List.mem_range]
  exact ⟨s.toNat, s.isLt, by simp⟩

theorem allSymbols_getElem (i : Nat) (h : i < allSymbols.length) : allSymbols[i] = BitVec.ofNat 8 i := by
  simp [allSymbols]

/-- Pairing the symbols with a table of 256 is the table read at every symbol. -/
theorem zip_toList_eq {α : Type} (f : Vector α 256) :
    allSymbols.zip f.toList = allSymbols.map fun s => (s, f[s.toNat]'s.isLt) := by
  apply List.ext_getElem
  · simp [allSymbols]
  · intro i h1 h2
    have hi : i < 256 := by simpa [allSymbols] using h1
    simp [allSymbols, Nat.mod_eq_of_lt hi]

theorem FreqTable.mem_present {f : FreqTable} {s : Byte} {n : Word} :
    (s, n) ∈ f.present ↔ n = f.count s ∧ 0 < (f.count s).toNat := by
  unfold FreqTable.present
  rw [zip_toList_eq, List.mem_filter, List.mem_map]
  constructor
  · rintro ⟨⟨x, -, hx⟩, hn⟩
    cases hx
    exact ⟨rfl, of_decide_eq_true hn⟩
  · rintro ⟨rfl, hn⟩
    exact ⟨⟨s, mem_allSymbols s, rfl⟩, decide_eq_true hn⟩

theorem CodeTable.mem_present {t : CodeTable} {s : Byte} {e : CodeEntry} :
    (s, e) ∈ t.present ↔ e = t.entry s ∧ (t.entry s).present = true := by
  unfold CodeTable.present
  rw [zip_toList_eq, List.mem_filter, List.mem_map]
  constructor
  · rintro ⟨⟨x, -, hx⟩, hn⟩
    cases hx
    exact ⟨rfl, hn⟩
  · rintro ⟨rfl, hn⟩
    exact ⟨⟨s, mem_allSymbols s, rfl⟩, hn⟩

theorem FreqTable.count_bump (f : FreqTable) (b s : Byte) :
    (f.bump b).count s = if s = b then f.count b + 1 else f.count s := by
  unfold FreqTable.bump FreqTable.count
  rw [Vector.getElem_set]
  by_cases h : s = b
  · simp [h]
  · rw [if_neg h, if_neg (fun e => h (BitVec.toNat_inj.mp e).symm)]

theorem CodeTable.entry_visitLeaf (t : CodeTable) (b s : Byte) (p : BitString) :
    CodeTable.entry (visitLeaf t b p) s
      = if s = b then { present := true, len := BitVec.ofNat 8 p.length, bits := p } else t.entry s := by
  unfold visitLeaf CodeTable.entry
  rw [Vector.getElem_set]
  by_cases h : s = b
  · simp [h]
  · rw [if_neg h, if_neg (fun e => h (BitVec.toNat_inj.mp e).symm)]

@[simp] theorem Forest.add_nodes (t : Forest) (x : Node) : (t.add x).nodes = t.nodes ++ [x] := rfl

@[simp] theorem Forest.add_heap (t : Forest) (x : Node) : (t.add x).heap = t.heap ++ [t.nodes.length] := rfl

theorem slice_eq_some {input : ByteString} {p n : Nat} {bs : ByteString} :
    slice input p n = some bs ↔ p + n ≤ input.length ∧ bs = (input.drop p).take n := by
  unfold slice
  split
  · simp; omega
  · simp only [Option.some.injEq]
    constructor
    · intro h; exact ⟨by omega, h.symm⟩
    · intro h; exact h.2.symm

theorem slice_length {input : ByteString} {p n : Nat} {bs : ByteString} (h : slice input p n = some bs) :
    bs.length = n := by
  obtain ⟨hl, rfl⟩ := slice_eq_some.mp h
  rw [List.length_take, List.length_drop]
  omega

@[simp] theorem be32_length (x : Word) : (be32 x).length = 4 := rfl

@[simp] theorem be16_length (x : BitVec 16) : (be16 x).length = 2 := rfl

/-- A register's big-endian bytes give back its number (00_scope.md R12). -/
theorem fromBE_be32 (x : Word) : fromBE (be32 x) = x.toNat := by
  have := x.isLt
  simp only [fromBE, be32, List.foldl, BitVec.extractLsb'_toNat, Nat.shiftRight_eq_div_pow]
  omega

theorem fromBE_be16 (x : BitVec 16) : fromBE (be16 x) = x.toNat := by
  have := x.isLt
  simp only [fromBE, be16, List.foldl, BitVec.extractLsb'_toNat, Nat.shiftRight_eq_div_pow]
  omega

/-- Everything a round of the decode loop can do (43_bit_packer.md R168). -/
theorem greedyRound_cases (m : ReverseMap) (bits : BitString) (declLen obufSize : Nat) (r : DecodeRegs) :
    (r.cnt = declLen ∧ greedyRound m bits declLen obufSize r = .stop .ok r)
    ∨ (r.cnt ≠ declLen ∧ (∃ sym, matchCode m r.acc = some sym) ∧ r.cnt = obufSize
        ∧ greedyRound m bits declLen obufSize r = .stop .capacityExceeded r)
    ∨ (r.cnt ≠ declLen ∧ r.cnt ≠ obufSize ∧ ∃ sym, matchCode m r.acc = some sym
        ∧ greedyRound m bits declLen obufSize r
          = .again { r with acc := [], cnt := r.cnt + 1, obuf := r.obuf.write r.cnt sym })
    ∨ (r.cnt ≠ declLen ∧ matchCode m r.acc = none ∧ bits.length ≤ r.pos ∧ r.acc ≠ []
        ∧ greedyRound m bits declLen obufSize r = .stop .unmappableCode r)
    ∨ (r.cnt ≠ declLen ∧ matchCode m r.acc = none ∧ bits.length ≤ r.pos ∧ r.acc = []
        ∧ greedyRound m bits declLen obufSize r = .stop .lengthMismatch r)
    ∨ (r.cnt ≠ declLen ∧ matchCode m r.acc = none ∧ ∃ b, bits[r.pos]? = some b
        ∧ greedyRound m bits declLen obufSize r = .again { r with acc := r.acc ++ [b], pos := r.pos + 1 }) := by
  unfold greedyRound
  by_cases h1 : r.cnt = declLen
  · simp [h1]
  · cases h2 : matchCode m r.acc with
    | some sym =>
      by_cases h3 : r.cnt = obufSize
      · exact .inr (.inl ⟨h1, ⟨sym, rfl⟩, h3, by rw [if_neg h1]; simp [h3]⟩)
      · exact .inr (.inr (.inl ⟨h1, h3, sym, rfl, by simp [h1, h3]⟩))
    | none =>
      cases h4 : bits[r.pos]? with
      | none =>
        have : bits.length ≤ r.pos := by simpa using h4
        by_cases h5 : r.acc = [] <;> simp [h1, h5, this]
      | some b => simp [h1]

end Sys2Proof.Machine
end

