-- ==== Sys2Proof/Laws/Decode.lean ====
section
/-! SUPPORT. What the fields of a command word say about the word (30_encoding.md R81). -/

namespace Sys2Proof

theorem cmdField_toNat (v : Word) : (cmdField v).toNat = v.toNat % 4 := by simp [cmdField]

theorem rsvField_toNat (v : Word) : (rsvField v).toNat = v.toNat / 4 := by
  simp only [rsvField, BitVec.extractLsb'_toNat, Nat.shiftRight_eq_div_pow]
  have := v.isLt
  omega

/-- RSV is 0 exactly for the four words below 4. -/
theorem rsvField_eq_zero {v : Word} : rsvField v = 0 ↔ v.toNat < 4 := by
  rw [← BitVec.toNat_inj, rsvField_toNat]
  simp only [BitVec.ofNat_eq_ofNat, BitVec.toNat_ofNat, Nat.zero_mod]
  omega

/-- The decoder on a word whose reserved bits are not 0. -/
theorem decodeCmd_reserved {v : Word} (h : 4 ≤ v.toNat) : decodeCmd v = .error .reservedBits := by
  rw [decodeCmd, if_neg (by rw [rsvField_eq_zero]; omega)]

/-- The decoder on a word whose reserved bits are 0 reads the CMD field. -/
theorem decodeCmd_unreserved {v : Word} (h : v.toNat < 4) : decodeCmd v = decodeCmdField (cmdField v) := by
  rw [decodeCmd, if_pos (rsvField_eq_zero.mpr h)]

/-- `decodeTableWord` reads the word as it is when it fits in its bits. -/
theorem decodeTableWord_of_lt {nbits w : Nat} (h : w < 2 ^ nbits) :
    decodeTableWord nbits w = (decodeCmd (BitVec.ofNat 32 w)).toOption := by
  rw [decodeTableWord, Nat.mod_eq_of_lt h]

end Sys2Proof
end

