-- ==== Sys2Proof/Laws/HostPort.lean ====
section
/-! SUPPORT. What a command and a host transaction can do, said once (20_memory.md R60 to R67). -/

namespace Sys2Proof.Machine

theorem State.command_busy {s : State} (f : State → State) (h : s.busy = true) : s.command f = s.errorWrite := by
  simp [command, h]

theorem State.command_idle {s : State} (f : State → State) (h : s.busy = false) :
    s.command f = (f s).okayWrite := by
  simp [command, h]

/-- The effect of an accepted command word (45_commands.md R240). -/
def effectOf : Instr → State → State
  | .nop => id
  | .encode => State.start .eFreq
  | .decode => State.start .dParse

/-- Every instruction is its effect under the common rule of CTRL writes. -/
theorem exec_eq (i : Instr) (s : State) : exec i s = .next (s.command (effectOf i)) := by
  cases i <;> rfl

/-- The effect of any accepted CTRL write. -/
def ctrlEffect (v : Word) : State → State :=
  match decodeCmd v with
  | .ok i => effectOf i
  | .error _ => State.illegalCommand

theorem ctrlEffect_cases (v : Word) :
    (∃ i, decodeCmd v = .ok i ∧ ctrlEffect v = effectOf i)
      ∨ ∃ e, decodeCmd v = .error e ∧ ctrlEffect v = State.illegalCommand := by
  unfold ctrlEffect
  cases decodeCmd v with
  | ok i => exact .inl ⟨i, rfl, rfl⟩
  | error e => exact .inr ⟨e, rfl, rfl⟩

theorem ctrlWrite_eq (v : Word) (s : State) : ctrlWrite v s = .next (s.command (ctrlEffect v)) := by
  unfold ctrlWrite ctrlEffect
  cases decodeCmd v with
  | ok i => exact exec_eq i s
  | error _ => rfl

/-- The port serves a CTRL write of 32 bits as a command (20_memory.md R63). -/
theorem hostTransaction_ctrl (s : State) (v : Word) : hostTransaction (.write .reg 0x00 32 v) s = ctrlWrite v s := by
  simp [hostTransaction, regAccessOk, regWrite]

/-- Everything a host transaction can do besides giving a response: nothing, one more draw, or an accepted write. -/
inductive PortEffect (s : State) : State → Prop where
  | none : PortEffect s s
  | draw (busy : s.busy = true) : PortEffect s { s with busyDraw := s.busyDraw + 1 }
  | key (v : Word) (idle : s.busy = false) : PortEffect s { s with key := v }
  | inLen (v : Word) (idle : s.busy = false) : PortEffect s { s with inLen := v }
  | ibuf (i : Nat) (b : Byte) (idle : s.busy = false) (inside : i < s.params.ibufSize.toNat) :
      PortEffect s { s with ibuf := s.ibuf.write i b }
  | ctrl (v : Word) (idle : s.busy = false) : PortEffect s (ctrlEffect v s)

/-- A transaction always gets its one response, after one of those effects. -/
theorem hostTransaction_next (t : Transaction) (s : State) :
    ∃ s' r, hostTransaction t s = .next (State.respond r s') ∧ PortEffect s s' := by
  have wIdle : ∀ f : State → State, (s.busy = false → PortEffect s (f s)) →
      ∃ s' r, Host.Outcome.next (φ := Fault) (ρ := Refusal) (s.writeIfIdle f) = .next (State.respond r s')
        ∧ PortEffect s s' := by
    intro f hf
    cases hb : s.busy with
    | true => exact ⟨s, _, by simp [State.writeIfIdle, hb]; rfl, .none⟩
    | false => exact ⟨f s, _, by simp [State.writeIfIdle, hb]; rfl, hf hb⟩
  have plain : ∀ r : Response, ∃ s' r', Host.Outcome.next (φ := Fault) (ρ := Refusal) (s.respond r)
      = .next (State.respond r' s') ∧ PortEffect s s' := fun r => ⟨s, r, rfl, .none⟩
  match t with
  | .read .reg i w => simp only [hostTransaction]; split <;> exact plain _
  | .read .ibuf i w => simp only [hostTransaction]; split <;> exact plain _
  | .read .obuf i w =>
    simp only [hostTransaction]
    split
    · unfold State.readObuf
      split
      · next hb => exact ⟨_, _, rfl, .draw hb⟩
      · exact plain _
    · exact plain _
  | .write .obuf i w v => exact plain _
  | .write .ibuf i w v =>
    simp only [hostTransaction]
    split
    · next h =>
      refine wIdle _ fun hb => .ibuf _ _ hb ?_
      have := h
      simp only [bufAccessOk, Bool.and_eq_true, decide_eq_true_eq] at this
      exact this.2
    · exact plain _
  | .write .reg i w v =>
    simp only [hostTransaction]
    split
    · unfold regWrite
      split
      · rw [ctrlWrite_eq]
        cases hb : s.busy with
        | true => exact ⟨s, _, by rw [State.command_busy _ hb]; rfl, .none⟩
        | false => exact ⟨_, _, by rw [State.command_idle _ hb]; rfl, .ctrl v hb⟩
      · split
        · exact wIdle _ fun hb => .key v hb
        · split
          · exact wIdle _ fun hb => .inLen v hb
          · exact plain _
    · exact plain _

end Sys2Proof.Machine
end

