-- ==== Sys2Proof/Laws/PerInstr.lean ====
section
/-! SUPPORT. Statements for all instructions, one lemma per constructor. -/

namespace Sys2Proof.Laws

/-- The word of an instruction has 0 in the reserved field, and the decoder's fields give back what the encoder put there
(30_encoding.md R81, R83). -/
def ReservedFieldClear.Statement (i : Instr) : Prop := rsvField (encode i) = 0 ∧ (encode i).toNat < 3

theorem ReservedFieldClear.nop : ReservedFieldClear.Statement .nop := by
  unfold ReservedFieldClear.Statement
  decide

theorem ReservedFieldClear.encode : ReservedFieldClear.Statement .encode := by
  unfold ReservedFieldClear.Statement
  decide

theorem ReservedFieldClear.decode : ReservedFieldClear.Statement .decode := by
  unfold ReservedFieldClear.Statement
  decide

end Sys2Proof.Laws
end

