-- ==== Sys2Proof/Laws/Phases.lean ====
section
/-! SUPPORT. What a core turn can do, said once (45_commands.md R242, R243), and the step's equations. -/

namespace Sys2Proof.Machine

/-- Everything a core turn that answers a next state can do. -/
inductive TurnEffect (s : State) : State → Prop where
  /-- An idle core waits. -/
  | wait (phase : s.phase = .idle) : TurnEffect s s
  /-- A check or a unit raises a fatal result. -/
  | raise (r : Result) (phase : s.phase ≠ .idle) (fatal : r.fatal = true) : TurnEffect s (s.raise r)
  | freq (phase : s.phase = .eFreq) (nonempty : s.internal.len ≠ 0)
      (fits : s.internal.len.toNat ≤ s.params.ibufSize.toNat) :
      TurnEffect s { s with phase := .eTree, internal := { s.internal with freq := freqCount s.input } }
  | tree (phase : s.phase = .eTree) (t : Forest) (root : Nat) (built : treeBuild s.internal.freq = some (t, root)) :
      TurnEffect s
        { s with phase := .eCode, internal := { s.internal with nodes := t.nodes, heap := t.heap, root := root } }
  | code (phase : s.phase = .eCode) (c : CodeTable) (generated : codeGen s.internal.nodes s.internal.root = some c) :
      TurnEffect s { s with phase := .ePack, internal := { s.internal with code := c } }
  | pack (phase : s.phase = .ePack) :
      TurnEffect s { s with phase := .eSer, internal := s.internal.packed s.input }
  | serialize (phase : s.phase = .eSer) (fits : s.internal.container.length ≤ s.params.obufSize.toNat) :
      TurnEffect s
        (State.finish .ok (BitVec.ofNat 32 s.internal.container.length) (BitVec.ofNat 32 s.internal.freq.distinct)
          s.internal.padCount s.internal.len { s with obuf := s.obuf.writeBytes 0 s.internal.container })
  | parse (phase : s.phase = .dParse) (fits : s.internal.len.toNat ≤ s.params.ibufSize.toNat)
      (t : ParsedTable) (h : RegionHeader)
      (parsed : parseTable s.params.decTableCap.toNat s.params.decCodeCap.toNat s.input = some t)
      (inCapacity : t.overCap = false)
      (header : readHeader (deobfuscate s.input t.rstart s.internal.k8) = some h) :
      TurnEffect s { s with phase := .dDecode, internal := s.internal.parsed t h }
  | decode (phase : s.phase = .dDecode) (r : Result) (d : DecodeRegs)
      (ran : greedyDecode s.internal.rmap s.internal.trimmed s.internal.declLen.toNat s.params.obufSize.toNat s.obuf
        = some (r, d)) :
      TurnEffect s (State.endDecode r d.cnt (s.decoded d))

theorem coreTurn_cases {s s' : State} (h : coreTurn s = .next s') : TurnEffect s s' := by
  unfold coreTurn at h
  cases hp : s.phase <;> rw [hp] at h <;> simp only at h
  · cases h; exact .wait hp
  · unfold turnEFreq at h
    split at h
    · cases h; exact .raise _ (by simp [hp]) rfl
    · split at h
      · cases h; exact .raise _ (by simp [hp]) rfl
      · cases h; exact .freq hp ‹_› (by omega)
  · unfold turnETree at h
    split at h
    · cases h
    · next t root ht => cases h; exact .tree hp t root ht
  · unfold turnECode at h
    split at h
    · cases h
    · next c hc => cases h; exact .code hp c hc
  · cases h; exact .pack hp
  · unfold turnESer at h
    simp only at h
    split at h
    · cases h; exact .raise _ (by simp [hp]) rfl
    · cases h; exact .serialize hp (by omega)
  · unfold turnDParse at h
    split at h
    · cases h; exact .raise _ (by simp [hp]) rfl
    · split at h
      · cases h; exact .raise _ (by simp [hp]) rfl
      · next t ht =>
        split at h
        · cases h; exact .raise _ (by simp [hp]) rfl
        · next hc =>
          split at h
          · cases h; exact .raise _ (by simp [hp]) rfl
          · next r hr => cases h; exact .parse hp (by omega) t r ht (by simpa using hc) hr
  · unfold turnDDecode at h
    split at h
    · cases h
    · next r d hd => cases h; exact .decode hp r d hd

/-- How the decode loop's result ends the command (45_commands.md R250). -/
theorem State.endDecode_cases (r : Result) (n : Nat) (s : State) :
    (r.fatal = true ∧ State.endDecode r n s = s.raise r)
      ∨ (r.fatal = false ∧ State.endDecode r n s
          = s.finish r (BitVec.ofNat 32 n) s.internal.entryCount s.internal.padCount s.internal.declLen) := by
  unfold State.endDecode
  cases h : r.fatal <;> simp

theorem step_empty {s : State} (h : s.queue = []) : step s = coreTurn s := by simp [step, h]

theorem step_coreTurn {s : State} {q : List Event} (h : s.queue = .coreTurn :: q) :
    step s = coreTurn { s with queue := q } := by simp [step, h]

theorem step_reset {s : State} {q : List Event} (h : s.queue = .reset :: q) :
    step s = .next ({ s with queue := q }.applyReset) := by simp [step, h]

theorem step_transaction {s : State} {t : Transaction} {q : List Event} (h : s.queue = .transaction t :: q) :
    step s = hostTransaction t { s with queue := q } := by simp [step, h]

/-- Everything a step that answers a next state can be. -/
theorem step_cases {s s' : State} (h : step s = .next s') :
    (∃ q, s.queue = .reset :: q ∧ s' = { s with queue := q }.applyReset)
      ∨ ((s.queue = [] ∨ ∃ q, s.queue = .coreTurn :: q) ∧ coreTurn { s with queue := s.queue.tail } = .next s')
      ∨ ∃ t q, s.queue = .transaction t :: q ∧ hostTransaction t { s with queue := q } = .next s' := by
  match hq : s.queue with
  | [] =>
    rw [step_empty hq] at h
    refine .inr (.inl ⟨.inl rfl, ?_⟩)
    rwa [List.tail_nil, ← hq]
  | .coreTurn :: q => exact .inr (.inl ⟨.inr ⟨q, rfl⟩, by rwa [step_coreTurn hq] at h⟩)
  | .reset :: q =>
    rw [step_reset hq] at h
    cases h
    exact .inl ⟨q, rfl, rfl⟩
  | .transaction t :: q => exact .inr (.inr ⟨t, q, rfl, by rwa [step_transaction hq] at h⟩)

end Sys2Proof.Machine
end

