-- ==== Sys2Proof/Laws/Run.lean ====
section
/-! SUPPORT. Runs of core turns with nothing waiting: how a run unfolds into turns, and that an idle core waits
(45_commands.md R251, 70_reset_and_hazards.md R293). -/

namespace Sys2Proof.Machine

theorem run_zero (s : State) : Sys2Proof.core.run 0 s = .next s := rfl

/-- A run of one step more begins with a step. -/
theorem run_step {k : Nat} {s s1 : State} (h : step s = .next s1) :
    Sys2Proof.core.run (k + 1) s = Sys2Proof.core.run k s1 := by
  have e : Sys2Proof.core.step s = .next s1 := h
  simp only [Host.Core.run, e]

/-- With nothing waiting that step is a core turn. -/
theorem run_turn {k : Nat} {s s1 : State} (hq : s.queue = []) (h : coreTurn s = .next s1) :
    Sys2Proof.core.run (k + 1) s = Sys2Proof.core.run k s1 :=
  run_step ((step_empty hq).trans h)

/-- An idle core with nothing waiting stays as it is. -/
theorem run_idle (k : Nat) {s : State} (hq : s.queue = []) (hp : s.phase = .idle) :
    Sys2Proof.core.run k s = .next s := by
  induction k with
  | zero => rfl
  | succ k ih => rw [run_turn (s1 := s) hq (by simp [coreTurn, hp])]; exact ih

/-- A fatal result ends a command at once: the remaining turns do nothing. -/
theorem run_raise (k : Nat) {s : State} {r : Result} (hq : s.queue = []) (h : coreTurn s = .next (s.raise r)) :
    Sys2Proof.core.run (k + 1) s = .next (s.raise r) := by
  rw [run_turn hq h]
  exact run_idle k (by simpa using hq) (by simp)

/-- The step that `withFetchWord` prepares is a CTRL write, which always gets a next state. -/
theorem step_withFetchWord (s : State) (nbits w : Nat) :
    step (s.withFetchWord nbits w) = .next (s.command (ctrlEffect (BitVec.ofNat 32 (w % 2 ^ nbits)))) := by
  rw [step_transaction (q := s.queue) rfl, hostTransaction_ctrl]
  exact ctrlWrite_eq _ _

end Sys2Proof.Machine
end

