-- ==== Sys2Proof/Tests/Slice0.lean ====
section
/-! SUPPORT. The model's own tests and, for each statement with hypotheses, a witness that meets them. Every expected value
is taken from spec/95_test_vectors.md (its row is named) or written out from the rule named. -/

namespace Sys2Proof.Tests

open Sys2Proof.Machine

/-! ### Helpers -/

/-- "aaaabbc". -/
def aaaabbc : ByteString := [0x61, 0x61, 0x61, 0x61, 0x62, 0x62, 0x63]

/-- C7, the container of "aaaabbc" with KEY 0 (row X1). -/
def c7 : ByteString :=
  [0x00, 0x00, 0x00, 0x03, 0x61, 0x00, 0x01, 0x31, 0x62, 0x00, 0x02, 0x30, 0x31, 0x63, 0x00, 0x02, 0x30, 0x30,
    0x06, 0x00, 0x00, 0x00, 0x07, 0xF5, 0x00]

/-- The container of "ab" with KEY 0xFFFFFFFF (row X8). -/
def x8 : ByteString :=
  [0x00, 0x00, 0x00, 0x02, 0x61, 0x00, 0x01, 0x30, 0x62, 0x00, 0x01, 0x31, 0xF9, 0xFF, 0xFF, 0xFF, 0xFD, 0xBF]

/-- An idle machine with these bytes in IBUF, IN_LEN their number, and this KEY. -/
def loaded (bytes : ByteString) (key : Word) : State :=
  { State.reset with ibuf := Memory.writeBytes [] 0 bytes, inLen := BitVec.ofNat 32 bytes.length, key := key }

/-- The same with another OBUF_SIZE. -/
def withObuf (n : Word) (s : State) : State := { s with params := { s.params with obufSize := n } }

/-- A machine that is busy with ENCODE, in its first phase. -/
def busy : State := { State.reset with busy := true, phase := .eFreq }

/-- The state of an outcome, and whether there is one. -/
def stateOf : Host.Outcome State Fault Refusal → State
  | .next s => s
  | .fault _ => State.reset
  | .refused _ => State.reset

def ran : Host.Outcome State Fault Refusal → Bool
  | .next _ => true
  | .fault _ => false
  | .refused _ => false

theorem eq_next {o : Host.Outcome State Fault Refusal} (h : ran o = true) : o = .next (stateOf o) := by
  cases o with
  | next s => rfl
  | fault _ => cases h
  | refused _ => cases h

/-- The state after a command word and `n` core turns. -/
def after (n : Nat) (w : Nat) (s : State) : State := stateOf (Sys2Proof.core.run (n + 1) (s.withFetchWord 32 w))

/-! ### WellFormed: each check of `Params.legal` refuses a parameter out of range (00_scope.md R8) -/

theorem test_legal_params : Config.resetParams.legal = true := by decide
theorem test_ibufSize_zero_refused : Params.legal { Config.resetParams with ibufSize := 0 } = false := by decide
theorem test_obufSize_zero_refused : Params.legal { Config.resetParams with obufSize := 0 } = false := by decide
theorem test_decTableCap_255_refused : Params.legal { Config.resetParams with decTableCap := 255 } = false := by decide
theorem test_decCodeCap_254_refused : Params.legal { Config.resetParams with decCodeCap := 254 } = false := by decide
/-- The bounds themselves are legal: 1, 1, 256, 255, and the upper ends. -/
theorem test_bounds_legal :
    Params.legal { ibufSize := 1, obufSize := 1, decTableCap := 256, decCodeCap := 255 } = true
      ∧ Params.legal
        { ibufSize := 0xFFFFFFFF, obufSize := 0xFFFFFFFF, decTableCap := 0xFFFFFFFF, decCodeCap := 65535 } = true := by
  decide
theorem test_instructions_well_formed :
    Instr.nop.wellFormed = true ∧ Instr.encode.wellFormed = true ∧ Instr.decode.wellFormed = true := by
  decide

/-! ### Decode: the words of 30_encoding.md R81 to R83, bit by bit -/

/-- NOP: RSV (31:2) = 0, CMD (1:0) = 00. -/
theorem test_decode_nop : decodeCmd 0b00000000000000000000000000000000 = .ok .nop := by decide
/-- ENCODE: RSV = 0, CMD = 01. -/
theorem test_decode_encode : decodeCmd 0b00000000000000000000000000000001 = .ok .encode := by decide
/-- DECODE: RSV = 0, CMD = 10. -/
theorem test_decode_decode : decodeCmd 0b00000000000000000000000000000010 = .ok .decode := by decide
/-- CMD = 11 is reserved (K8); RSV not 0 is reserved whatever CMD is (K9, K10). -/
theorem test_decode_illegal :
    decodeCmd 0b00000000000000000000000000000011 = .error .reservedCommand
      ∧ decodeCmd 0b00000000000000000000000000000101 = .error .reservedBits
      ∧ decodeCmd 0b10000000000000000000000000000010 = .error .reservedBits := by
  decide
theorem test_decodeTableWord :
    decodeTableWord 32 0 = some .nop ∧ decodeTableWord 32 1 = some .encode ∧ decodeTableWord 32 2 = some .decode
      ∧ decodeTableWord 32 3 = none ∧ decodeTableWord 32 0x80000002 = none := by
  decide

/-! ### One step of each command -/

/-- K2: STATUS 0x12 stays 0x12 after NOP. -/
theorem test_nop_keeps_status :
    (after 0 0 { State.reset with done := true, result := .emptyInput }).status = 0x12 := by decide
/-- K12: a command while BUSY gets ERROR, STATUS stays 0x01. -/
theorem test_nop_busy_refused : (after 0 0 busy).responses = [⟨.error, none⟩] ∧ (after 0 0 busy).status = 0x01 := by
  decide +kernel
/-- K13: ENCODE after STATUS 0x12 gives 0x01; LEN and k8 are latched (R245). -/
theorem test_encode_starts :
    let t := after 0 1 { loaded aaaabbc 0x1234565A with done := true, result := .emptyInput }
    t.status = 0x01 ∧ t.internal.len = 7 ∧ t.internal.k8 = 0x5A ∧ t.phase = .eFreq := by
  decide +kernel
/-- K3 and K4: EMPTY_INPUT 0x12 for IN_LEN 0, CAPACITY_EXCEEDED 0x52 for IN_LEN 4097, from the first turn. -/
theorem test_encode_first_checks :
    (after 1 1 State.reset).status = 0x12 ∧ (after 1 1 { State.reset with inLen := 4097 }).status = 0x52 := by
  decide +kernel
/-- K14: OUT_LEN still reads 7 after a start. -/
theorem test_decode_starts :
    let t := after 0 2 { State.reset with outLen := 7, done := true }
    t.status = 0x01 ∧ t.outLen = 7 ∧ t.phase = .dParse := by
  decide +kernel
/-- Y18 and Y23: an empty container and a huge entryCount are truncated, 0x22. -/
theorem test_decode_truncated :
    (after 1 2 State.reset).status = 0x22
      ∧ (after 1 2 (loaded [0xFF, 0xFF, 0xFF, 0xFF, 0, 0, 0, 0, 0] 0)).status = 0x22 := by
  decide +kernel
/-- K8, K9, K10: an illegal word gives 0x62 at once, BUSY never 1. -/
theorem test_illegal_status :
    (after 0 3 State.reset).status = 0x62 ∧ (after 0 5 State.reset).status = 0x62
      ∧ (after 0 0x80000002 State.reset).status = 0x62 := by
  decide +kernel

/-! ### The units, on the spec's vectors -/

/-- T1: the tree of "aaaabbc". -/
theorem test_tree :
    treeBuild (freqCount aaaabbc)
      = some (⟨[.leaf 4 0x61, .leaf 2 0x62, .leaf 1 0x63, .internal 3 2 1, .internal 7 3 0], [4]⟩, 4) := by
  decide +kernel
/-- T4: leaf a (2, index 0) is taken before leaf b (2, index 1). -/
theorem test_tree_tie :
    treeBuild (freqCount [0x61, 0x61, 0x62, 0x62, 0x63])
      = some (⟨[.leaf 2 0x61, .leaf 2 0x62, .leaf 1 0x63, .internal 3 2 0, .internal 5 1 3], [4]⟩, 4) := by
  decide +kernel
/-- CG1: a = 1, b = 01, c = 00, and no other symbol. -/
theorem test_codes :
    (codeTableOf aaaabbc).map CodeTable.present
      = some [(0x61, ⟨true, 1, [true]⟩), (0x62, ⟨true, 2, [false, true]⟩), (0x63, ⟨true, 2, [false, false]⟩)] := by
  decide +kernel
/-- The list of section 2.3. -/
theorem test_pad_count :
    [0, 1, 2, 5, 7, 8, 9, 10, 16, 23, 24].map padCountOf = [0, 7, 6, 3, 1, 0, 7, 6, 0, 1, 0] := by decide
/-- P1 and Q1: 1111010100 packs into F5 00 and comes back. -/
theorem test_pack :
    pack [true, true, true, true, false, true, false, true, false, false] 6 = [0xF5, 0x00]
      ∧ trim (unpack [0xF5, 0x00]) 6 = [true, true, true, true, false, true, false, true, false, false]
      ∧ trim (unpack [0xF5, 0x00]) 20 = [] := by
  decide
/-- S9. -/
theorem test_xor : xorRegion [0x06, 0, 0, 0, 0x07, 0xF5, 0] 0x5A = [0x5C, 0x5A, 0x5A, 0x5A, 0x5D, 0xAF, 0x5A] := by
  decide
/-- R213, Y24: the later entry with the same code bytes wins. -/
theorem test_later_entry_wins :
    (buildRmap [([0x31], 0x61), ([0x31], 0x62)]).lookup [0x31] = some 0x62 := by decide

/-! ### Witnesses: concrete states and operands that meet a statement's hypotheses, clause by clause -/

theorem witness_DecodeEncodeAgree :
    decodeCmd 2 = .ok .decode ∧ rsvField 4 ≠ 0 ∧ rsvField 0xFFFFFFFF ≠ 0 ∧ (3 : Word).toNat > 2 := by decide

theorem witness_StepRunsDecodedCommand :
    (State.reset.withFetchWord 32 2).queue = [.transaction (.write .reg 0x00 32 2)]
      ∧ decodeCmd 2 = .ok .decode ∧ decodeCmd 3 = .error .reservedCommand
      ∧ (busy.withFetchWord 32 3).queue = [.transaction (.write .reg 0x00 32 3)] ∧ busy.busy = true := by
  decide

theorem witness_NopIsSkip : State.reset.busy = false ∧ busy.busy = true := by decide

theorem witness_IllegalWordCompletesAtOnce :
    (3 : Word) ≠ 0 ∧ (3 : Word) ≠ 1 ∧ (3 : Word) ≠ 2 ∧ (0xFFFFFFFF : Word) ≠ 2 ∧ State.reset.busy = false := by decide

theorem witness_StartLatchesAndClears : (loaded aaaabbc 0x15A).busy = false ∧ keyByte 0x15A = 0x5A := by decide

theorem witness_CommandFrame :
    exec .nop State.reset = .next State.reset.okayWrite ∧ exec .encode busy = .next busy.errorWrite
      ∧ busy.busy = true
      ∧ exec .decode (loaded aaaabbc 0) = .next ((loaded aaaabbc 0).start .dParse).okayWrite :=
  ⟨rfl, rfl, rfl, rfl⟩

theorem witness_BusyCommandRefused : busy.busy = true ∧ busy.phase = .eFreq := by decide

/-- The four outcomes of ENCODE, each at the boundary of its check: K4, K3, K6, K7 (and the bytes of X1). -/
theorem witness_EncodeChecksInOrder :
    (loaded aaaabbc 0).busy = false ∧ (loaded aaaabbc 0).queue = []
      ∧ (4097 : Word).toNat > Config.resetParams.ibufSize.toNat
      ∧ (4096 : Word).toNat ≤ Config.resetParams.ibufSize.toNat
      ∧ State.reset.inLen = 0
      ∧ (codeTableOf aaaabbc).map (fun c => containerWith c aaaabbc 0) = some c7
      ∧ (loaded aaaabbc 0).ibufBytes 7 = aaaabbc
      ∧ c7.length > (withObuf 24 (loaded aaaabbc 0)).params.obufSize.toNat
      ∧ c7.length ≤ (withObuf 25 (loaded aaaabbc 0)).params.obufSize.toNat := by
  decide +kernel

/-- K6 and K7: 25 bytes do not fit in 24 and do in 25. -/
theorem witness_EncodeChecksInOrder_runs :
    (after 5 1 (withObuf 24 (loaded aaaabbc 0))).status = 0x52
      ∧ (let u := after 5 1 (withObuf 25 (loaded aaaabbc 0))
         u.status = 0x02 ∧ u.outLen = 25 ∧ u.entries = 3 ∧ u.pad = 6 ∧ u.declLen = 7 ∧ u.obufBytes 25 = c7) := by
  decide +kernel

/-- The outcomes of DECODE's checks: 4097 bytes, Y13 truncated, Y30 beyond capacity (one entry past a capacity of 256), Y1
parsed. -/
theorem witness_DecodeChecksInOrder :
    (loaded c7 0).busy = false ∧ (loaded c7 0).queue = [] ∧ (loaded c7 0).ibufBytes 25 = c7
      ∧ (4097 : Word).toNat > Config.resetParams.ibufSize.toNat
      ∧ parseTable 256 255 (c7.take 18) = none
      ∧ (parseTable 2 255 c7).map ParsedTable.overCap = some true
      ∧ (parseTable 256 1 c7).map ParsedTable.overCap = some true
      ∧ (parseTable 3 2 c7).map ParsedTable.overCap = some false
      ∧ (parseTable 256 255 c7).map ParsedTable.rstart = some 18 := by
  decide +kernel

/-- Y1, Y3, Y4, Y28: OK, UNMAPPABLE_CODE, LENGTH_MISMATCH, CAPACITY_EXCEEDED. -/
theorem witness_DecodeChecksInOrder_runs :
    (let u := after 2 2 (loaded c7 0)
     u.status = 0x02 ∧ u.outLen = 7 ∧ u.entries = 3 ∧ u.pad = 6 ∧ u.declLen = 7 ∧ u.obufBytes 7 = aaaabbc)
      ∧ (after 2 2 (loaded c7 1)).status = 0x42
      ∧ (let u := after 2 2 (loaded c7 2)
         u.status = 0x32 ∧ u.outLen = 9 ∧ u.declLen = 0x02020205
           ∧ u.obufBytes 9 = [0x61, 0x61, 0x61, 0x61, 0x62, 0x61, 0x61, 0x63, 0x63])
      ∧ (after 2 2 (withObuf 6 (loaded c7 0))).status = 0x52 := by
  decide +kernel

/-- A core turn of each phase: idle, and the phases of an ENCODE and of a DECODE, each answering a next state. -/
theorem witness_PhasesFollowTheSequence :
    coreTurn State.reset = .next State.reset
      ∧ ((List.range 6).map fun n => (after n 1 (loaded [0x61, 0x62] 0)).phase)
        = [.eFreq, .eTree, .eCode, .ePack, .eSer, .idle]
      ∧ ((List.range 3).map fun n => (after n 2 (loaded x8 0xFF)).phase) = [.dParse, .dDecode, .idle]
      ∧ (after 1 1 State.reset).phase = .idle ∧ (after 1 2 State.reset).phase = .idle :=
  ⟨rfl, by decide +kernel⟩

theorem witness_PhasesFollowTheSequence_commands :
    State.reset.busy = false ∧ exec .nop State.reset = .next State.reset.okayWrite
      ∧ exec .encode State.reset = .next (State.reset.start .eFreq).okayWrite
      ∧ exec .decode State.reset = .next (State.reset.start .dParse).okayWrite :=
  ⟨rfl, rfl, rfl, rfl⟩

/-- A completing turn of each kind: a failed check, E_SER, D_DECODE. -/
theorem witness_CompletionWritesResults :
    (∃ s s' : State, s.obuf.wf ∧ s.phase = .eFreq ∧ coreTurn s = .next s' ∧ s'.phase = .idle ∧ s'.result = .emptyInput)
      ∧ (∃ s s' : State, s.obuf.wf ∧ s.phase = .eSer ∧ coreTurn s = .next s' ∧ s'.phase = .idle ∧ s'.result = .ok)
      ∧ (∃ s s' : State, s.obuf.wf ∧ s.phase = .dDecode ∧ coreTurn s = .next s' ∧ s'.phase = .idle ∧ s'.result = .ok)
      ∧ ∃ s s' : State, s.obuf.wf ∧ s.phase = .dDecode ∧ coreTurn s = .next s' ∧ s'.phase = .idle
        ∧ s'.result = .lengthMismatch := by
  have h1 : (ran (coreTurn (after 0 1 State.reset)) && decide ((after 0 1 State.reset).obuf = [])
      && decide ((after 0 1 State.reset).phase = .eFreq)
      && decide ((stateOf (coreTurn (after 0 1 State.reset))).phase = .idle)
      && decide ((stateOf (coreTurn (after 0 1 State.reset))).result = .emptyInput)) = true := by decide +kernel
  have h2 : (ran (coreTurn (after 4 1 (loaded [0x61] 0))) && decide ((after 4 1 (loaded [0x61] 0)).obuf = [])
      && decide ((after 4 1 (loaded [0x61] 0)).phase = .eSer)
      && decide ((stateOf (coreTurn (after 4 1 (loaded [0x61] 0)))).phase = .idle)
      && decide ((stateOf (coreTurn (after 4 1 (loaded [0x61] 0)))).result = .ok)) = true := by decide +kernel
  have h3 : (ran (coreTurn (after 1 2 (loaded x8 0xFF))) && decide ((after 1 2 (loaded x8 0xFF)).obuf = [])
      && decide ((after 1 2 (loaded x8 0xFF)).phase = .dDecode)
      && decide ((stateOf (coreTurn (after 1 2 (loaded x8 0xFF)))).phase = .idle)
      && decide ((stateOf (coreTurn (after 1 2 (loaded x8 0xFF)))).result = .ok)) = true := by decide +kernel
  have h4 : (ran (coreTurn (after 1 2 (loaded c7 2))) && decide ((after 1 2 (loaded c7 2)).obuf = [])
      && decide ((after 1 2 (loaded c7 2)).phase = .dDecode)
      && decide ((stateOf (coreTurn (after 1 2 (loaded c7 2)))).phase = .idle)
      && decide ((stateOf (coreTurn (after 1 2 (loaded c7 2)))).result = .lengthMismatch)) = true := by decide +kernel
  simp only [Bool.and_eq_true, decide_eq_true_eq] at h1 h2 h3 h4
  obtain ⟨⟨⟨⟨r1, o1⟩, p1⟩, q1⟩, t1⟩ := h1
  obtain ⟨⟨⟨⟨r2, o2⟩, p2⟩, q2⟩, t2⟩ := h2
  obtain ⟨⟨⟨⟨r3, o3⟩, p3⟩, q3⟩, t3⟩ := h3
  obtain ⟨⟨⟨⟨r4, o4⟩, p4⟩, q4⟩, t4⟩ := h4
  exact ⟨⟨_, _, by rw [o1]; exact .nil, p1, eq_next r1, q1, t1⟩, ⟨_, _, by rw [o2]; exact .nil, p2, eq_next r2, q2, t2⟩,
    ⟨_, _, by rw [o3]; exact .nil, p3, eq_next r3, q3, t3⟩, ⟨_, _, by rw [o4]; exact .nil, p4, eq_next r4, q4, t4⟩⟩

/-- Completing turns of both commands: EMPTY_INPUT from E_FREQ, TRUNCATED_CONTAINER from D_PARSE. -/
theorem witness_ResultsOfEachCommand :
    (∃ s s' : State, coreTurn s = .next s' ∧ s.phase = .eFreq ∧ s'.phase = .idle ∧ s'.result = .emptyInput)
      ∧ ∃ s s' : State, coreTurn s = .next s' ∧ s.phase = .dParse ∧ s'.phase = .idle
        ∧ s'.result = .truncatedContainer :=
  ⟨⟨busy, _, eq_next (by decide +kernel), by decide, by decide +kernel, by decide +kernel⟩,
    ⟨{ busy with phase := .dParse }, _, eq_next (by decide +kernel), by decide, by decide +kernel, by decide +kernel⟩⟩

/-! ### Witnesses of the invariant -/

/-- An idle machine with a loaded input meets the invariant. -/
theorem witness_SafeState_idle : SafeState (loaded c7 0x5A) where
  legal := by decide
  ibufWf := by decide +kernel
  ibufBelow := by decide +kernel
  obufWf := by decide
  obufBelow := by decide
  idleIff := by decide
  busyNotDone := by decide
  freshResult := by decide
  latched := by decide
  outFits := by decide
  fatalZero := by decide
  work := trivial

/-- A machine that has completed with a fatal result meets it (K8). -/
theorem witness_SafeState_fatal : SafeState (after 0 3 (loaded c7 0)) where
  legal := by decide +kernel
  ibufWf := by decide +kernel
  ibufBelow := by decide +kernel
  obufWf := by decide +kernel
  obufBelow := by decide +kernel
  idleIff := by decide +kernel
  busyNotDone := by decide +kernel
  freshResult := by decide +kernel
  latched := by decide +kernel
  outFits := by decide +kernel
  fatalZero := by decide +kernel
  work := by
    have h : (after 0 3 (loaded c7 0)).phase = .idle := by decide +kernel
    unfold PhaseWork
    rw [h]
    trivial

/-- A machine that runs DECODE meets it. -/
theorem witness_SafeState_busy : SafeState (after 0 2 (loaded c7 0)) where
  legal := by decide +kernel
  ibufWf := by decide +kernel
  ibufBelow := by decide +kernel
  obufWf := by decide +kernel
  obufBelow := by decide +kernel
  idleIff := by decide +kernel
  busyNotDone := by decide +kernel
  freshResult := by decide +kernel
  latched := by decide +kernel
  outFits := by decide +kernel
  fatalZero := by decide +kernel
  work := by
    have h : (after 0 2 (loaded c7 0)).phase = .dParse := by decide +kernel
    unfold PhaseWork
    rw [h]
    trivial

/-- A machine that runs ENCODE and has done all but E_SER meets it: the clause on the phases' work is not empty. -/
theorem witness_SafeState_work : SafeState (after 4 1 (loaded [0x61, 0x62] 0)) where
  legal := by decide +kernel
  ibufWf := by decide +kernel
  ibufBelow := by decide +kernel
  obufWf := by decide +kernel
  obufBelow := by decide +kernel
  idleIff := by decide +kernel
  busyNotDone := by decide +kernel
  freshResult := by decide +kernel
  latched := by decide +kernel
  outFits := by decide +kernel
  fatalZero := by decide +kernel
  work := by
    have h : (after 4 1 (loaded [0x61, 0x62] 0)).phase = .eSer := by decide +kernel
    unfold PhaseWork
    rw [h]
    decide +kernel

theorem witness_LegalStatusWords :
    SafeState (after 0 2 (loaded c7 0)) ∧ (after 0 2 (loaded c7 0)).busy = true
      ∧ SafeState (after 0 3 (loaded c7 0)) ∧ (after 0 3 (loaded c7 0)).busy = false
      ∧ (after 0 3 (loaded c7 0)).status = 0x62 :=
  ⟨witness_SafeState_busy, by decide +kernel, witness_SafeState_fatal, by decide +kernel, by decide +kernel⟩

theorem witness_ResetMeetsTheInvariant :
    Params.legal { ibufSize := 1, obufSize := 1, decTableCap := 256, decCodeCap := 255 } = true := by decide

theorem witness_StepKeepsTheInvariant : ∃ s s' : State, SafeState s ∧ step s = .next s' ∧ s'.phase = .dDecode :=
  ⟨_, _, witness_SafeState_busy, eq_next (by decide +kernel), by decide +kernel⟩

theorem witness_MachineNeverStops : SafeState (after 4 1 (loaded [0x61, 0x62] 0)) := witness_SafeState_work

theorem witness_EveryCommandCompletes :
    (SafeState (after 4 1 (loaded [0x61, 0x62] 0)) ∧ (after 4 1 (loaded [0x61, 0x62] 0)).busy = true
        ∧ (after 4 1 (loaded [0x61, 0x62] 0)).queue = [])
      ∧ SafeState (after 0 2 (loaded c7 0)) ∧ (after 0 2 (loaded c7 0)).busy = true
        ∧ (after 0 2 (loaded c7 0)).queue = [] :=
  ⟨⟨witness_SafeState_work, by decide +kernel, by decide +kernel⟩, witness_SafeState_busy, by decide +kernel,
    by decide +kernel⟩

/-! ### Witnesses for status, reset, host port -/

theorem witness_ResetAbandonsTheCommand :
    ({ busy with queue := [.reset, .coreTurn] } : State).queue = .reset :: [.coreTurn]
      ∧ ({ busy with queue := [.reset, .coreTurn] } : State).busy = true := by
  decide

/-- A start sets BUSY, a completion and a reset clear it. -/
theorem witness_BusyChangesOnlyByStartCompletionReset :
    (∃ s s' : State, step s = .next s' ∧ s.busy = false ∧ s'.busy = true)
      ∧ (∃ s s' : State, step s = .next s' ∧ IsReset s ∧ s.busy = true ∧ s'.busy = false)
      ∧ ∃ s s' : State, step s = .next s' ∧ IsCoreTurn s ∧ s.phase ≠ .idle ∧ s'.phase = .idle ∧ s.busy = true :=
  ⟨⟨State.reset.withFetchWord 32 1, _, eq_next (by decide +kernel), by decide, by decide +kernel⟩,
    ⟨{ busy with queue := [.reset] }, _, eq_next (by decide +kernel), ⟨[], rfl⟩, by decide, by decide +kernel⟩,
    ⟨busy, _, eq_next (by decide +kernel), .inl rfl, by decide, by decide +kernel, by decide⟩⟩

/-- A start and a reset clear DONE, a completion and an illegal word set it, NOP keeps it. -/
theorem witness_DoneChangesOnlyByStartCompletionReset :
    (∃ s s' : State, step s = .next s' ∧ IsCtrlWrite s 1 ∧ s.busy = false ∧ s.done = true ∧ s'.done = false)
      ∧ (∃ s s' : State, step s = .next s' ∧ IsReset s ∧ s.done = true ∧ s'.done = false)
      ∧ (∃ s s' : State, step s = .next s' ∧ IsCoreTurn s ∧ s.phase ≠ .idle ∧ s'.phase = .idle ∧ s.done = false
          ∧ s'.done = true)
      ∧ (∃ s s' : State, step s = .next s' ∧ IsCtrlWrite s 3 ∧ s.busy = false ∧ s.done = false ∧ s'.done = true)
      ∧ ∃ s s' : State, step s = .next s' ∧ IsCtrlWrite s 0 ∧ s.busy = false ∧ s.done = true ∧ s'.done = true :=
  ⟨⟨{ State.reset with done := true }.withFetchWord 32 1, _, eq_next (by decide +kernel), ⟨[], by decide⟩, by decide,
      by decide, by decide +kernel⟩,
    ⟨{ State.reset with done := true, queue := [.reset] }, _, eq_next (by decide +kernel), ⟨[], rfl⟩, by decide,
      by decide +kernel⟩,
    ⟨busy, _, eq_next (by decide +kernel), .inl rfl, by decide, by decide +kernel, by decide, by decide +kernel⟩,
    ⟨State.reset.withFetchWord 32 3, _, eq_next (by decide +kernel), ⟨[], by decide⟩, by decide, by decide,
      by decide +kernel⟩,
    ⟨{ State.reset with done := true }.withFetchWord 32 0, _, eq_next (by decide +kernel), ⟨[], by decide⟩, by decide,
      by decide, by decide +kernel⟩⟩

theorem witness_ParametersNeverChange : ∃ s' : State, step (State.reset.withFetchWord 32 1) = .next s' :=
  ⟨_, eq_next (by decide +kernel)⟩

theorem witness_RegisterWrites :
    State.reset.busy = false ∧ busy.busy = true ∧ (0x0C : Word) ∈ [(0x00 : Word), 0x08, 0x0C]
      ∧ (0x3C : Word) ∈ [(0x04 : Word), 0x10, 0x14, 0x18, 0x1C, 0x20, 0x24, 0x28, 0x2C, 0x30, 0x34, 0x38, 0x3C] := by
  decide

/-- One access for each clause, at its boundary (rows B1, B2, B3, B8, B9, B12). -/
theorem witness_RefusedAccessesChangeNothing :
    (8 : Nat) ≠ 32 ∧ (0x02 : Word).toNat % 4 ≠ 0 ∧ (0x40 : Word).toNat > 0x3C ∧ busy.busy = true
      ∧ (4096 : Word).toNat ≥ State.reset.params.ibufSize.toNat
      ∧ (4096 : Word).toNat ≥ State.reset.params.obufSize.toNat ∧ (32 : Nat) ≠ 8 := by
  decide

theorem witness_IbufHostAccess :
    (4095 : Word).toNat < (loaded c7 0).params.ibufSize.toNat ∧ (loaded c7 0).busy = false ∧ (loaded c7 0).ibuf.wf
      ∧ (0 : Word).toNat < busy.params.ibufSize.toNat ∧ busy.busy = true ∧ (32 : Nat) ≠ 8 := by
  decide +kernel

theorem witness_ObufHostAccess :
    (4095 : Word).toNat < State.reset.params.obufSize.toNat ∧ State.reset.busy = false ∧ busy.busy = true
      ∧ (32 : Nat) ≠ 8 := by
  decide

/-- An input that fills the buffer, and the empty one. -/
theorem witness_LoadFillsTheInput :
    let s : State := { loaded [] 0 with params := { Config.resetParams with ibufSize := 7 } }
    s.busy = false ∧ s.ibuf.wf ∧ aaaabbc.length ≤ s.params.ibufSize.toNat
      ∧ ([] : ByteString).length ≤ s.params.ibufSize.toNat := by
  decide

/-! ### Witnesses for the units -/

theorem witness_FrequencyCountsOccurrences : aaaabbc.length < 2 ^ 32 := by decide

/-- The example of R116: from 0 (frequency 4), 1 (2), 2 (1) the extraction returns 2. -/
theorem witness_ExtractMinTakesTheLeastKey :
    [0, 1, 2].Nodup ∧ [0, 1, 2] ≠ ([] : List Nat)
      ∧ heapExtractMin [.leaf 4 0x61, .leaf 2 0x62, .leaf 1 0x63] [0, 1, 2] = some (2, [0, 1]) := by
  decide

theorem witness_MergeJoinsTheTwoLeast :
    let t : Forest := ⟨[.leaf 1 0x61, .leaf 1 0x62], [0, 1]⟩
    t.heap.Nodup ∧ (∀ n ∈ t.heap, n < t.nodes.length) ∧ 2 ≤ t.heap.length := by
  decide

theorem witness_TreeShape :
    aaaabbc ≠ [] ∧ aaaabbc.length < 2 ^ 32
      ∧ (treeBuild (freqCount aaaabbc)).map (fun x => x.1.nodes[4]?) = some (some (.internal 7 3 0)) := by
  decide +kernel

theorem witness_OrderOfInputIrrelevant : ([0x61, 0x62] : ByteString).Perm [0x62, 0x61] := by decide

theorem witness_SingleSymbolHasEmptyCode : 1 ≤ 1 ∧ 1 < 2 ^ 32 ∧ 2 ^ 32 - 1 < 2 ^ 32 ∧ (0x42 : Byte) ≠ 0x41 := by decide

theorem witness_CodesArePathLabels :
    (codeGen [.leaf 1 0x61, .leaf 1 0x62, .internal 2 0 1] 2).map (fun c => (c.entry 0x62).present) = some true := by
  decide +kernel

theorem witness_CodeTableHasTheSymbolsThatOccur :
    ([0x61] : ByteString) ≠ [] ∧ ([0x61] : ByteString).length < 2 ^ 32
      ∧ (codeTableOf [0x61]).map (fun c => (c.entry 0x61).present) = some true := by
  decide +kernel

theorem witness_CodesArePrefixFree :
    ([0x61, 0x62] : ByteString).length < 2 ^ 32 ∧ 2 ≤ (freqCount [0x61, 0x62]).distinct
      ∧ (codeTableOf [0x61, 0x62]).isSome = true ∧ (0x61 : Byte) ∈ ([0x61, 0x62] : ByteString)
      ∧ (0x62 : Byte) ∈ ([0x61, 0x62] : ByteString) ∧ (0x61 : Byte) ≠ 0x62 := by
  decide +kernel

theorem witness_CodesAreComplete :
    ([0x61] : ByteString) ≠ [] ∧ ([0x61] : ByteString).length < 2 ^ 32 ∧ (codeTableOf [0x61]).isSome = true := by
  decide +kernel

theorem witness_PadCountCompletesTheByte : 0 % 8 = 0 ∧ 16 % 8 = 0 := by decide

/-- Ten bits and six pad bits: the last bit of the last byte. -/
theorem witness_PackIsMostSignificantFirst :
    7 < 8 ∧ 1 < ((List.replicate 10 true).length + padCountOf (List.replicate 10 true).length) / 8 := by
  decide

/-- Q1, and Q11 whose loop stops at the end of OBUF. -/
theorem witness_GreedyDecodeWritesBelowCnt :
    (∃ r d, Memory.wf []
        ∧ greedyDecode [([0x31], 0x61), ([0x30, 0x31], 0x62)] [true, false, true] 2 4096 [] = some (r, d) ∧ d.cnt = 2)
      ∧ ∃ r d, greedyDecode [([], 0x41)] [] 3 2 [] = some (r, d) ∧ d.cnt = 2 :=
  ⟨⟨.ok, { acc := [], cnt := 2, pos := 3, obuf := [(0, 0x61), (1, 0x62)] }, by decide +kernel, by decide +kernel, rfl⟩,
    ⟨.capacityExceeded, { acc := [], cnt := 2, pos := 0, obuf := [(0, 0x41), (1, 0x41)] }, by decide +kernel, rfl⟩⟩

/-- A one-entry table, a region of exactly five bytes, the least legal capacities. -/
theorem witness_ParseInvertsSerialize :
    let c := visitLeaf codeClear 0x61 [true, false]
    Params.legal { ibufSize := 1, obufSize := 1, decTableCap := 256, decCodeCap := 255 } = true
      ∧ (∀ x ∈ c.present, x.2.len.toNat = x.2.bits.length) ∧ c.present.length = 1
      ∧ 5 ≤ ([0, 0, 0, 0, 0] : ByteString).length := by
  decide +kernel

/-- Y19: eight bytes are truncated. Y20: nine parse. -/
theorem witness_ParseReadsOnlyBytesItHas :
    (List.replicate 8 (0 : Byte)).length < 9
      ∧ parseTable 256 255 (List.replicate 9 0)
        = some { entryCount := 0, overCap := false, entries := [], rstart := 4, payloadLen := 0 } := by
  decide +kernel

/-- Capacity of three entries is enough for C7, two is not, and a code of two bits is longer than one. -/
theorem witness_CapacityFlagIsExact :
    (parseTable 3 2 c7).isSome = true ∧ (parseTable (2 ^ 32) 65535 c7).isSome = true
      ∧ (parseTable 3 2 c7).map ParsedTable.overCap = some false
      ∧ (parseTable 2 2 c7).map ParsedTable.overCap = some true
      ∧ (parseTable 3 1 c7).map ParsedTable.overCap = some true := by
  decide +kernel

/-! ### Witnesses for whole commands -/

/-- "ab" under KEY 0xFFFFFFFF, its container X8, and DECODE under KEY 0xFF (the same low byte) and KEY 0. -/
theorem witness_DecodeInvertsEncode_and_WrongKey :
    ∃ s u v v' : State, s.busy = false ∧ s.queue = [] ∧ s.params.legal = true ∧ 1 ≤ s.inLen.toNat
      ∧ s.inLen.toNat ≤ s.params.ibufSize.toNat
      ∧ Sys2Proof.core.run 6 (s.withFetchWord 32 1) = .next u ∧ u.result = .ok
      ∧ v.busy = false ∧ v.queue = [] ∧ v.params = s.params ∧ v.inLen = u.outLen ∧ keyByte v.key = keyByte s.key
      ∧ v.ibufBytes u.outLen.toNat = u.obufBytes u.outLen.toNat
      ∧ u.outLen.toNat ≤ s.params.ibufSize.toNat ∧ s.inLen.toNat ≤ s.params.obufSize.toNat
      ∧ v'.busy = false ∧ v'.queue = [] ∧ v'.params = s.params ∧ v'.inLen = u.outLen
      ∧ keyByte v'.key ≠ keyByte s.key ∧ v'.ibufBytes u.outLen.toNat = u.obufBytes u.outLen.toNat := by
  have h : (ran (Sys2Proof.core.run 6 ((loaded [0x61, 0x62] 0xFFFFFFFF).withFetchWord 32 1))
      && decide ((after 5 1 (loaded [0x61, 0x62] 0xFFFFFFFF)).result = .ok)
      && decide ((after 5 1 (loaded [0x61, 0x62] 0xFFFFFFFF)).outLen = 18)
      && decide ((after 5 1 (loaded [0x61, 0x62] 0xFFFFFFFF)).obufBytes 18 = x8)) = true := by decide +kernel
  simp only [Bool.and_eq_true, decide_eq_true_eq] at h
  obtain ⟨⟨⟨h1, h2⟩, h3⟩, h4⟩ := h
  refine ⟨loaded [0x61, 0x62] 0xFFFFFFFF, after 5 1 (loaded [0x61, 0x62] 0xFFFFFFFF), loaded x8 0xFF, loaded x8 0,
    by decide, by decide, by decide, by decide, by decide, eq_next h1, h2, ?_⟩
  rw [h3, show (18 : Word).toNat = 18 from rfl, h4]
  decide +kernel

/-- Two idle machines that differ in everything a command's outcome must not depend on. -/
theorem witness_OutcomeDependsOnlyOnTheInputs :
    let s := loaded aaaabbc 0x100
    let s' : State := { loaded aaaabbc 0x1234500 with
      done := true, result := .unmappableCode, outLen := 5, obuf := [(3, 1)],
      internal := { Internal.reset with cnt := 7, nodes := [.leaf 1 2] } }
    s ≠ s' ∧ s.busy = false ∧ s'.busy = false ∧ s.queue = [] ∧ s'.queue = [] ∧ s.params = s'.params
      ∧ s.inLen = s'.inLen ∧ keyByte s.key = keyByte s'.key
      ∧ s.ibufBytes s.inLen.toNat = s'.ibufBytes s'.inLen.toNat := by
  decide +kernel

end Sys2Proof.Tests
end

section
/-! The parameters of an instance are fixed (00_scope.md R8, 10_state.md R30 to R33): each effect of a turn, of a
transaction and of a reset keeps them, and so does every step. -/

namespace Sys2Proof.Machine

@[simp] theorem State.decoded_params (r : DecodeRegs) (s : State) : (s.decoded r).params = s.params := rfl

@[simp] theorem State.endDecode_params (r : Result) (n : Nat) (s : State) :
    (State.endDecode r n s).params = s.params := by
  obtain ⟨-, h⟩ | ⟨-, h⟩ := State.endDecode_cases r n s
  · rw [h, State.raise_params]
  · rw [h, State.finish_params]

@[simp] theorem effectOf_params (i : Instr) (s : State) : (effectOf i s).params = s.params := by
  cases i with
  | nop => rfl
  | encode => exact State.start_params _ s
  | decode => exact State.start_params _ s

@[simp] theorem ctrlEffect_params (v : Word) (s : State) : (ctrlEffect v s).params = s.params := by
  obtain ⟨i, -, h⟩ | ⟨_, -, h⟩ := ctrlEffect_cases v
  · rw [h, effectOf_params]
  · rw [h, State.illegalCommand_params]

theorem PortEffect.params_eq {s s' : State} (h : PortEffect s s') : s'.params = s.params := by
  cases h with
  | ctrl v => exact ctrlEffect_params v s
  | none | draw | key | inLen | ibuf => rfl

theorem TurnEffect.params_eq {s s' : State} (h : TurnEffect s s') : s'.params = s.params := by
  cases h with
  | raise r => exact State.raise_params r s
  | serialize => exact State.finish_params ..
  | decode _ r d => rw [State.endDecode_params, State.decoded_params]
  | wait | freq | tree | code | pack | parse => rfl

theorem coreTurn_params {s s' : State} (h : coreTurn s = .next s') : s'.params = s.params :=
  (coreTurn_cases h).params_eq

theorem hostTransaction_params {t : Transaction} {s s' : State} (h : hostTransaction t s = .next s') :
    s'.params = s.params := by
  obtain ⟨u, r, hu, effect⟩ := hostTransaction_next t s
  obtain rfl : State.respond r u = s' := by simpa [hu] using h
  rw [State.respond_params, effect.params_eq]

/-- Settles O20: a step is a reset, a core turn or a transaction, and each keeps the parameters. -/
theorem parametersNeverChange : Obligations.ParametersNeverChange := by
  intro s s' h
  obtain ⟨q, -, rfl⟩ | ⟨-, turn⟩ | ⟨t, q, -, served⟩ := step_cases h
  · exact State.applyReset_params _
  · exact (coreTurn_params turn :)
  · exact (hostTransaction_params served :)

end Sys2Proof.Machine
end

section
/-! What the decode loop does to OBUF (43_bit_packer.md R168, 20_memory.md R69): an invariant of a round is an invariant of
the loop, and the registers stay within OBUF. -/

namespace Sys2Proof.Machine

/-- A round that ends the loop leaves the registers as they are. -/
theorem greedyRound_stop {m : ReverseMap} {bits : BitString} {declLen obufSize : Nat} {r d : DecodeRegs} {result : Result}
    (h : greedyRound m bits declLen obufSize r = .stop result d) : d = r := by
  obtain ⟨-, e⟩ | ⟨-, -, -, e⟩ | ⟨-, -, _, -, e⟩ | ⟨-, -, -, -, e⟩ | ⟨-, -, -, -, e⟩ | ⟨-, -, _, -, e⟩ :=
      greedyRound_cases m bits declLen obufSize r <;>
    rw [e] at h <;> cases h <;> rfl

/-- What every further round keeps holds of the registers the loop ends with. -/
theorem greedyLoop_keeps {m : ReverseMap} {bits : BitString} {declLen obufSize : Nat} {P : DecodeRegs → Prop}
    (round : ∀ r r', P r → greedyRound m bits declLen obufSize r = .again r' → P r')
    {rounds : Nat} {r d : DecodeRegs} {result : Result} (start : P r)
    (h : greedyLoop m bits declLen obufSize rounds r = some (result, d)) : P d := by
  induction rounds generalizing r with
  | zero => cases h
  | succ rounds ih =>
    unfold greedyLoop at h
    split at h
    · next stopped =>
      cases h
      exact greedyRound_stop stopped ▸ start
    · next again => exact ih (round _ _ start again) h

/-- The decode loop's registers fit an OBUF of `size` bytes: CNT within it, the buffer canonical and below it. -/
structure DecodeRegs.Fits (size : Nat) (r : DecodeRegs) : Prop where
  obufWf : r.obuf.wf
  obufBelow : r.obuf.below size
  cntLe : r.cnt ≤ size

/-- A round emits a symbol only where CNT is still below OBUF_SIZE, so the registers go on fitting. -/
theorem DecodeRegs.Fits.again {m : ReverseMap} {bits : BitString} {declLen size : Nat} {r r' : DecodeRegs}
    (fits : r.Fits size) (h : greedyRound m bits declLen size r = .again r') : r'.Fits size := by
  obtain ⟨-, e⟩ | ⟨-, -, -, e⟩ | ⟨-, notFull, sym, -, e⟩ | ⟨-, -, -, -, e⟩ | ⟨-, -, -, -, e⟩ | ⟨-, -, b, -, e⟩ :=
      greedyRound_cases m bits declLen size r <;>
    rw [e] at h <;> cases h
  · have room : r.cnt < size := lt_of_le_of_ne fits.cntLe notFull
    exact ⟨Memory.wf_write fits.obufWf _ _, Memory.below_write fits.obufBelow room _, room⟩
  · exact ⟨fits.obufWf, fits.obufBelow, fits.cntLe⟩

/-- GREEDY_DECODE over a buffer that fits OBUF ends with one, and with CNT within OBUF_SIZE. -/
theorem greedyDecode_fits {m : ReverseMap} {bits : BitString} {declLen size : Nat} {obuf : Memory} {result : Result}
    {d : DecodeRegs} (wf : obuf.wf) (below : obuf.below size)
    (h : greedyDecode m bits declLen size obuf = some (result, d)) : d.Fits size :=
  greedyLoop_keeps (fun _ _ => DecodeRegs.Fits.again) ⟨wf, below, Nat.zero_le _⟩ h

end Sys2Proof.Machine
end

section
/-! What each finished phase has left behind, one equivalence per phase of `PhaseWork` (45_commands.md R242, R243). -/

namespace Sys2Proof.Machine

theorem phaseWork_idle {s : State} (h : s.phase = .idle) : PhaseWork s := by
  rw [PhaseWork, h]; trivial

theorem phaseWork_eFreq {s : State} (h : s.phase = .eFreq) : PhaseWork s := by
  rw [PhaseWork, h]; trivial

theorem phaseWork_dParse {s : State} (h : s.phase = .dParse) : PhaseWork s := by
  rw [PhaseWork, h]; trivial

theorem phaseWork_eTree_iff {s : State} (h : s.phase = .eTree) :
    PhaseWork s ↔ s.internal.len ≠ 0 ∧ s.internal.freq = freqCount s.input := by
  rw [PhaseWork, h]

theorem phaseWork_eCode_iff {s : State} (h : s.phase = .eCode) :
    PhaseWork s ↔ s.internal.len ≠ 0 ∧ s.internal.freq = freqCount s.input
      ∧ treeBuild s.internal.freq = some (⟨s.internal.nodes, s.internal.heap⟩, s.internal.root) := by
  rw [PhaseWork, h]

theorem phaseWork_ePack_iff {s : State} (h : s.phase = .ePack) :
    PhaseWork s ↔ s.internal.len ≠ 0 ∧ s.internal.freq = freqCount s.input
      ∧ codeTableOf s.input = some s.internal.code := by
  rw [PhaseWork, h]

theorem phaseWork_eSer_iff {s : State} (h : s.phase = .eSer) :
    PhaseWork s ↔ s.internal.len ≠ 0 ∧ s.internal.freq = freqCount s.input
      ∧ codeTableOf s.input = some s.internal.code ∧ s.internal = s.internal.packed s.input := by
  rw [PhaseWork, h]

theorem phaseWork_dDecode_iff {s : State} (h : s.phase = .dDecode) :
    PhaseWork s ↔ ∃ t r, parseTable s.params.decTableCap.toNat s.params.decCodeCap.toNat s.input = some t
      ∧ t.overCap = false ∧ readHeader (deobfuscate s.input t.rstart s.internal.k8) = some r
      ∧ s.internal = s.internal.parsed t r := by
  rw [PhaseWork, h]

/-- The code table of an input is the walk of the tree of its counters. -/
theorem codeTableOf_eq_codeGen {input : ByteString} {t : Forest} {root : Nat}
    (built : treeBuild (freqCount input) = some (t, root)) : codeTableOf input = codeGen t.nodes root := by
  simp only [codeTableOf, built]

end Sys2Proof.Machine
end

section
/-! The invariant (10_state.md R24, R45, R46, R50, R51): what it says of an idle machine, that reset meets it, and that every
effect of a core turn and of a transaction keeps it. -/

namespace Sys2Proof.Machine

/-- The invariant of an idle machine: the clauses on a running command are empty. -/
theorem SafeState.of_idle {s : State} (phase : s.phase = .idle) (busy : s.busy = false) (legal : s.params.legal = true)
    (ibufWf : s.ibuf.wf) (ibufBelow : s.ibuf.below s.params.ibufSize.toNat)
    (obufWf : s.obuf.wf) (obufBelow : s.obuf.below s.params.obufSize.toNat)
    (freshResult : s.done = false → s.result = .ok) (outFits : s.outLen.toNat ≤ s.params.obufSize.toNat)
    (fatalZero : s.result.fatal = true → s.outLen = 0 ∧ s.entries = 0 ∧ s.pad = 0 ∧ s.declLen = 0) : SafeState s where
  legal := legal
  ibufWf := ibufWf
  ibufBelow := ibufBelow
  obufWf := obufWf
  obufBelow := obufBelow
  idleIff := by simp [phase, busy]
  busyNotDone := by simp [busy]
  freshResult := freshResult
  latched := by simp [busy]
  outFits := outFits
  fatalZero := fatalZero
  work := phaseWork_idle phase

theorem safeState_resetWith {p : Params} (legal : p.legal = true) : SafeState (State.resetWith p) :=
  .of_idle rfl rfl legal .nil (by simp) .nil (by simp) (fun _ => rfl) (Nat.zero_le _) nofun

/-- Settles O51: every buffer is empty, the core idle, and the parameters are the legal ones given. -/
theorem resetMeetsTheInvariant : Obligations.ResetMeetsTheInvariant :=
  ⟨safeState_resetWith (by decide), fun _ => safeState_resetWith⟩

/-- What waits, what was answered and the number of busy reads are no concern of the invariant. -/
theorem SafeState.bookkeeping {s : State} (h : SafeState s) (q : List Event) (rs : List Response) (n : Nat) :
    SafeState { s with queue := q, responses := rs, busyDraw := n } where
  legal := h.legal
  ibufWf := h.ibufWf
  ibufBelow := h.ibufBelow
  obufWf := h.obufWf
  obufBelow := h.obufBelow
  idleIff := h.idleIff
  busyNotDone := h.busyNotDone
  freshResult := h.freshResult
  latched := h.latched
  outFits := h.outFits
  fatalZero := h.fatalZero
  work := h.work

theorem SafeState.withQueue {s : State} (h : SafeState s) (q : List Event) : SafeState { s with queue := q } :=
  h.bookkeeping q s.responses s.busyDraw

theorem SafeState.respond {s : State} (h : SafeState s) (r : Response) : SafeState (s.respond r) :=
  h.bookkeeping s.queue (r :: s.responses) s.busyDraw

theorem SafeState.applyReset {s : State} (h : SafeState s) : SafeState s.applyReset :=
  have r := safeState_resetWith h.legal
  .of_idle rfl rfl r.legal r.ibufWf r.ibufBelow r.obufWf r.obufBelow r.freshResult r.outFits r.fatalZero

/-- A write of KEY, IN_LEN or IBUF is accepted only while no command runs, so nothing latched goes stale. -/
theorem SafeState.setInputs {s : State} (h : SafeState s) (idle : s.busy = false) (key inLen : Word) {m : Memory}
    (wf : m.wf) (below : m.below s.params.ibufSize.toNat) :
    SafeState { s with key := key, inLen := inLen, ibuf := m } :=
  .of_idle (h.idleIff.mpr idle) idle h.legal wf below h.obufWf h.obufBelow h.freshResult h.outFits h.fatalZero

/-- START latches the registers and enters a first phase, before which nothing is to be done. -/
theorem SafeState.start {s : State} (h : SafeState s) {first : Phase} (busyPhase : first ≠ .idle)
    (work : PhaseWork (s.start first)) : SafeState (s.start first) where
  legal := h.legal
  ibufWf := h.ibufWf
  ibufBelow := h.ibufBelow
  obufWf := .nil
  obufBelow := by simp
  idleIff := by simp [busyPhase]
  busyNotDone _ := rfl
  freshResult _ := rfl
  latched _ := ⟨rfl, rfl⟩
  outFits := h.outFits
  fatalZero := nofun
  work := work

theorem SafeState.illegalCommand {s : State} (h : SafeState s) (idle : s.busy = false) : SafeState s.illegalCommand :=
  .of_idle (h.idleIff.mpr idle) rfl h.legal h.ibufWf h.ibufBelow h.obufWf h.obufBelow nofun (Nat.zero_le _)
    fun _ => ⟨rfl, rfl, rfl, rfl⟩

theorem SafeState.effectOf {s : State} (h : SafeState s) (i : Instr) : SafeState (effectOf i s) := by
  cases i with
  | nop => exact h
  | encode => exact h.start nofun (phaseWork_eFreq rfl)
  | decode => exact h.start nofun (phaseWork_dParse rfl)

theorem SafeState.ctrlEffect {s : State} (h : SafeState s) (idle : s.busy = false) (v : Word) :
    SafeState (ctrlEffect v s) := by
  obtain ⟨i, -, e⟩ | ⟨_, -, e⟩ := ctrlEffect_cases v
  · rw [e]; exact h.effectOf i
  · rw [e]; exact h.illegalCommand idle

theorem PortEffect.safeState {s s' : State} (h : SafeState s) (effect : PortEffect s s') : SafeState s' := by
  cases effect with
  | none => exact h
  | draw => exact h.bookkeeping s.queue s.responses _
  | key v idle => exact h.setInputs idle v s.inLen h.ibufWf h.ibufBelow
  | inLen v idle => exact h.setInputs idle s.key v h.ibufWf h.ibufBelow
  | ibuf i b idle inside =>
    exact h.setInputs idle s.key s.inLen (Memory.wf_write h.ibufWf i b) (Memory.below_write h.ibufBelow inside b)
  | ctrl v idle => exact h.ctrlEffect idle v

/-- A fatal result leaves result registers of 0 and no byte of OBUF. -/
theorem SafeState.raise {s u : State} {r : Result} (h : SafeState s) (params : u.params = s.params := by rfl)
    (ibuf : u.ibuf = s.ibuf := by rfl) : SafeState (u.raise r) := by
  refine .of_idle rfl rfl ?_ ?_ ?_ .nil (by simp) nofun (Nat.zero_le _) fun _ => ⟨rfl, rfl, rfl, rfl⟩
  · simpa [params] using h.legal
  · simpa [ibuf] using h.ibufWf
  · simpa [ibuf, params] using h.ibufBelow

/-- A result that is not fatal leaves what was written to OBUF and its length. -/
theorem SafeState.finish {s u : State} {r : Result} {n : Nat} {entries declLen : Word} {pad : Byte} (h : SafeState s)
    (nonfatal : r.fatal = false) (obufWf : u.obuf.wf) (obufBelow : u.obuf.below s.params.obufSize.toNat)
    (fits : n ≤ s.params.obufSize.toNat) (params : u.params = s.params := by rfl) (ibuf : u.ibuf = s.ibuf := by rfl) :
    SafeState (u.finish r (BitVec.ofNat 32 n) entries pad declLen) := by
  refine .of_idle rfl rfl ?_ ?_ ?_ obufWf ?_ nofun ?_ (by simp [nonfatal])
  · simpa [params] using h.legal
  · simpa [ibuf] using h.ibufWf
  · simpa [ibuf, params] using h.ibufBelow
  · simpa [params] using obufBelow
  · simpa [params] using (Nat.mod_le n _).trans fits

/-- A turn that goes on to another phase of the running command touches only PHASE and the internal registers. -/
theorem SafeState.advance {s : State} {p : Phase} {n : Internal} (h : SafeState s) (running : s.phase ≠ .idle)
    (work : PhaseWork { s with phase := p, internal := n }) (busyPhase : p ≠ .idle := by nofun)
    (len : n.len = s.internal.len := by rfl) (k8 : n.k8 = s.internal.k8 := by rfl) :
    SafeState { s with phase := p, internal := n } where
  legal := h.legal
  ibufWf := h.ibufWf
  ibufBelow := h.ibufBelow
  obufWf := h.obufWf
  obufBelow := h.obufBelow
  idleIff := by simpa [busyPhase, running] using h.idleIff
  busyNotDone := h.busyNotDone
  freshResult := h.freshResult
  latched := by simpa [len, k8] using h.latched
  outFits := h.outFits
  fatalZero := h.fatalZero
  work := work

/-- The decode loop stays within OBUF, so either end of it meets the invariant. -/
theorem SafeState.endDecode {s : State} {r : Result} {d : DecodeRegs} (h : SafeState s)
    (fits : d.Fits s.params.obufSize.toNat) : SafeState (State.endDecode r d.cnt (s.decoded d)) := by
  obtain ⟨-, e⟩ | ⟨nonfatal, e⟩ := State.endDecode_cases r d.cnt (s.decoded d)
  · rw [e]; exact h.raise
  · rw [e]; exact h.finish (u := s.decoded d) nonfatal fits.obufWf fits.obufBelow fits.cntLe

/-- Every effect of a core turn keeps the invariant: a turn that goes on adds its phase's work to what the phases before it
left, a turn that ends the command writes within OBUF. -/
theorem TurnEffect.safeState {s s' : State} (h : SafeState s) (effect : TurnEffect s s') : SafeState s' := by
  cases effect with
  | wait => exact h
  | raise => exact h.raise
  | freq phase nonempty =>
    refine h.advance (by simp [phase]) ?_
    exact (phaseWork_eTree_iff rfl).mpr ⟨nonempty, rfl⟩
  | tree phase t root built =>
    obtain ⟨nonempty, counted⟩ := (phaseWork_eTree_iff phase).mp h.work
    refine h.advance (by simp [phase]) ?_
    exact (phaseWork_eCode_iff rfl).mpr ⟨nonempty, counted, built⟩
  | code phase c generated =>
    obtain ⟨nonempty, counted, built⟩ := (phaseWork_eCode_iff phase).mp h.work
    have table : codeTableOf s.input = some c := (codeTableOf_eq_codeGen (counted ▸ built)).trans generated
    refine h.advance (by simp [phase]) ?_
    exact (phaseWork_ePack_iff rfl).mpr ⟨nonempty, counted, table⟩
  | pack phase =>
    obtain ⟨nonempty, counted, table⟩ := (phaseWork_ePack_iff phase).mp h.work
    refine h.advance (by simp [phase]) ?_
    exact (phaseWork_eSer_iff rfl).mpr ⟨nonempty, counted, table, rfl⟩
  | serialize phase fits =>
    refine h.finish rfl (Memory.wf_writeBytes h.obufWf 0 _) (Memory.below_writeBytes h.obufBelow ?_) fits
    rwa [Nat.zero_add]
  | parse phase _ t r parsed inCapacity header =>
    refine h.advance (by simp [phase]) ?_
    exact (phaseWork_dDecode_iff rfl).mpr ⟨t, r, parsed, inCapacity, header, rfl⟩
  | decode phase r d ran => exact h.endDecode (greedyDecode_fits h.obufWf h.obufBelow ran)

theorem SafeState.hostTransaction {t : Transaction} {s s' : State} (h : SafeState s)
    (served : hostTransaction t s = .next s') : SafeState s' := by
  obtain ⟨u, r, hu, effect⟩ := hostTransaction_next t s
  obtain rfl : State.respond r u = s' := by simpa [hu] using served
  exact (effect.safeState h).respond r

/-- Settles O52: a step takes an event off the queue and is then a reset, a core turn or a transaction, and every effect of
each keeps the invariant. -/
theorem stepKeepsTheInvariant : Obligations.StepKeepsTheInvariant := by
  intro s s' h stepped
  obtain ⟨q, -, rfl⟩ | ⟨-, turn⟩ | ⟨t, q, -, served⟩ := step_cases stepped
  · exact (h.withQueue q).applyReset
  · exact (coreTurn_cases turn).safeState (h.withQueue s.queue.tail)
  · exact (h.withQueue q).hostTransaction served

end Sys2Proof.Machine
end

section
/-! The register map of the port (10_state.md R22, R23, R38) and the reset values as the host reads them (R53). -/

namespace Sys2Proof.Machine

theorem State.readReg_ctrl (s : State) : s.readReg 0x00 = 0 := rfl
theorem State.readReg_status (s : State) : s.readReg 0x04 = s.status := rfl
theorem State.readReg_key (s : State) : s.readReg 0x08 = s.key := rfl
theorem State.readReg_inLen (s : State) : s.readReg 0x0C = s.inLen := rfl
theorem State.readReg_outLen (s : State) : s.readReg 0x10 = s.outLen := rfl
theorem State.readReg_entries (s : State) : s.readReg 0x14 = s.entries := rfl
theorem State.readReg_pad (s : State) : s.readReg 0x18 = s.pad.setWidth 32 := rfl
theorem State.readReg_declLen (s : State) : s.readReg 0x1C = s.declLen := rfl
theorem State.readReg_ibufSize (s : State) : s.readReg 0x20 = s.params.ibufSize := rfl
theorem State.readReg_obufSize (s : State) : s.readReg 0x24 = s.params.obufSize := rfl
theorem State.readReg_decTableCap (s : State) : s.readReg 0x28 = s.params.decTableCap := rfl
theorem State.readReg_decCodeCap (s : State) : s.readReg 0x2C = s.params.decCodeCap.setWidth 32 := rfl

theorem State.readReg_reserved (s : State) :
    s.readReg 0x30 = 0 ∧ s.readReg 0x34 = 0 ∧ s.readReg 0x38 = 0 ∧ s.readReg 0x3C = 0 := ⟨rfl, rfl, rfl, rfl⟩

theorem resetWith_status (p : Params) : (State.resetWith p).status = 0 := by
  have word : statusWord false false .ok = 0 := by decide
  exact word

/-- Settles O16: the register map read at the reset values; STATUS is the word of three cleared fields. -/
theorem resetValues : Obligations.ResetValues := by
  intro p s
  obtain ⟨r30, r34, r38, r3C⟩ := s.readReg_reserved
  exact ⟨rfl, rfl, rfl, rfl, s.readReg_ctrl, resetWith_status p, s.readReg_key, s.readReg_inLen, s.readReg_outLen,
    s.readReg_entries, s.readReg_pad, s.readReg_declLen, s.readReg_ibufSize, s.readReg_obufSize, s.readReg_decTableCap,
    s.readReg_decCodeCap, r30, r34, r38, r3C, rfl, rfl⟩

end Sys2Proof.Machine
end

section
/-! BUSY and DONE (10_state.md R25, R26): everything a step can do to the two flags, said once. -/

namespace Sys2Proof.Machine

/-- A word that starts a command. -/
def StartsCommand (v : Word) : Prop := decodeCmd v = .ok .encode ∨ decodeCmd v = .ok .decode

/-- What an accepted CTRL write does to BUSY and DONE: a start, a NOP or an illegal completion. -/
theorem ctrlEffect_flags (v : Word) (s : State) :
    (StartsCommand v ∧ (ctrlEffect v s).busy = true ∧ (ctrlEffect v s).done = false)
      ∨ (decodeCmd v = .ok .nop ∧ ctrlEffect v s = s)
      ∨ ∃ e, decodeCmd v = .error e ∧ (ctrlEffect v s).busy = false ∧ (ctrlEffect v s).done = true := by
  obtain ⟨i, word, e⟩ | ⟨x, word, e⟩ := ctrlEffect_cases v <;> rw [e]
  · cases i with
    | nop => exact .inr (.inl ⟨word, rfl⟩)
    | encode => exact .inl ⟨.inl word, rfl, rfl⟩
    | decode => exact .inl ⟨.inr word, rfl, rfl⟩
  · exact .inr (.inr ⟨x, word, rfl, rfl⟩)

/-- The two flags keep their values. -/
def FlagsKept (s s' : State) : Prop := s'.busy = s.busy ∧ s'.done = s.done

/-- A write that updates the state only while idle keeps both flags when its update does. -/
theorem State.writeIfIdle_flagsKept {f : State → State} {s : State} (h : FlagsKept s (f s)) :
    FlagsKept s (s.writeIfIdle f) := by
  unfold State.writeIfIdle
  split
  · exact ⟨rfl, rfl⟩
  · exact h

theorem State.readObuf_flagsKept (s : State) (i : Word) : FlagsKept s (s.readObuf i) := by
  unfold State.readObuf
  split <;> exact ⟨rfl, rfl⟩

/-- A served write of a register other than CTRL keeps both flags. -/
theorem regWrite_flagsKept {offset : Word} (h : offset ≠ 0x00) (v : Word) (s : State) :
    ∃ u, regWrite offset v s = .next u ∧ FlagsKept s u := by
  unfold regWrite
  rw [if_neg h]
  split
  · exact ⟨_, rfl, State.writeIfIdle_flagsKept ⟨rfl, rfl⟩⟩
  · split
    · exact ⟨_, rfl, State.writeIfIdle_flagsKept ⟨rfl, rfl⟩⟩
    · exact ⟨_, rfl, rfl, rfl⟩

/-- A transaction is a served CTRL write or leaves BUSY and DONE alone; no read changes them. -/
theorem hostTransaction_flags (t : Transaction) (s : State) :
    (∃ v, t = .write .reg 0x00 32 v) ∨ ∃ u, hostTransaction t s = .next u ∧ FlagsKept s u := by
  have plain (r : Response) : FlagsKept s (s.respond r) := ⟨rfl, rfl⟩
  match t with
  | .write .reg i w v =>
    by_cases served : regAccessOk i w = true
    · by_cases atCtrl : i = 0x00
      · have width : w = 32 := by simp_all [regAccessOk]
        exact .inl ⟨v, by rw [atCtrl, width]⟩
      · simp only [hostTransaction, if_pos served]
        exact .inr (regWrite_flagsKept atCtrl v s)
    · simp only [hostTransaction, if_neg served]
      exact .inr ⟨_, rfl, plain _⟩
  | .write .ibuf i w v =>
    right
    simp only [hostTransaction]
    split
    · exact ⟨_, rfl, State.writeIfIdle_flagsKept ⟨rfl, rfl⟩⟩
    · exact ⟨_, rfl, plain _⟩
  | .read .obuf i w =>
    right
    simp only [hostTransaction]
    split
    · exact ⟨_, rfl, s.readObuf_flagsKept i⟩
    · exact ⟨_, rfl, plain _⟩
  | .read .reg i w | .read .ibuf i w =>
    right
    simp only [hostTransaction]
    split <;> exact ⟨_, rfl, plain _⟩
  | .write .obuf i w v => exact .inr ⟨_, rfl, plain _⟩

/-- A turn completes the command, or it leaves the flags alone and a running command goes on to a phase of it. -/
theorem TurnEffect.flags {s s' : State} (h : TurnEffect s s') :
    (s.phase ≠ .idle ∧ s'.phase = .idle ∧ s'.busy = false ∧ s'.done = true)
      ∨ ((s.phase ≠ .idle → s'.phase ≠ .idle) ∧ FlagsKept s s') := by
  cases h with
  | wait => exact .inr ⟨id, rfl, rfl⟩
  | raise r phase => exact .inl ⟨phase, rfl, rfl, rfl⟩
  | serialize phase => exact .inl ⟨by simp [phase], rfl, rfl, rfl⟩
  | decode phase r d =>
    obtain ⟨-, e⟩ | ⟨-, e⟩ := State.endDecode_cases r d.cnt (s.decoded d) <;> rw [e] <;>
      exact .inl ⟨by simp [phase], rfl, rfl, rfl⟩
  | freq | tree | code | pack | parse => exact .inr ⟨nofun, rfl, rfl⟩

theorem step_of_isReset {s s' : State} (event : IsReset s) (h : step s = .next s') :
    s'.busy = false ∧ s'.done = false := by
  obtain ⟨q, hq⟩ := event
  rw [step_reset hq] at h
  cases h
  exact ⟨rfl, rfl⟩

theorem step_of_isCoreTurn {s s' : State} (event : IsCoreTurn s) (h : step s = .next s') :
    TurnEffect { s with queue := s.queue.tail } s' := by
  obtain hq | ⟨q, hq⟩ := event
  · rw [step_empty hq] at h
    have e : { s with queue := s.queue.tail } = s := by rw [hq, List.tail_nil, ← hq]
    exact coreTurn_cases (e.symm ▸ h)
  · rw [step_coreTurn hq] at h
    rw [hq]
    exact coreTurn_cases h

/-- A core turn after which no command runs any more has completed it. -/
theorem step_completes {s s' : State} (event : IsCoreTurn s) (running : s.phase ≠ .idle) (idle : s'.phase = .idle)
    (h : step s = .next s') : s'.busy = false ∧ s'.done = true := by
  obtain ⟨-, -, busy, done⟩ | ⟨goesOn, -⟩ := (step_of_isCoreTurn event h).flags
  · exact ⟨busy, done⟩
  · exact absurd idle (goesOn running)

theorem step_of_isCtrlWrite {s s' : State} {v : Word} (event : IsCtrlWrite s v) (h : step s = .next s') :
    ∃ q, s' = State.command (ctrlEffect v) { s with queue := q } := by
  obtain ⟨q, hq⟩ := event
  rw [step_transaction hq, hostTransaction_ctrl, ctrlWrite_eq] at h
  cases h
  exact ⟨q, rfl⟩

/-- Everything a CTRL write can do to BUSY and DONE: a refusal or NOP nothing, a start and an illegal word their own. -/
theorem step_ctrlWrite_flags {s s' : State} {v : Word} (event : IsCtrlWrite s v) (h : step s = .next s') :
    (s.busy = true ∧ FlagsKept s s')
      ∨ (s.busy = false ∧
        ((StartsCommand v ∧ s'.busy = true ∧ s'.done = false)
          ∨ (decodeCmd v = .ok .nop ∧ FlagsKept s s')
          ∨ ∃ e, decodeCmd v = .error e ∧ s'.busy = false ∧ s'.done = true)) := by
  obtain ⟨q, rfl⟩ := step_of_isCtrlWrite event h
  obtain busy | idle := Bool.eq_false_or_eq_true s.busy
  · rw [State.command_busy (s := { s with queue := q }) _ busy]
    exact .inl ⟨busy, rfl, rfl⟩
  · rw [State.command_idle (s := { s with queue := q }) _ idle]
    refine .inr ⟨idle, ?_⟩
    obtain started | ⟨word, e⟩ | illegal := ctrlEffect_flags v { s with queue := q }
    · exact .inl started
    · exact .inr (.inl ⟨word, by rw [e]; exact ⟨rfl, rfl⟩⟩)
    · exact .inr (.inr illegal)

/-- Everything a step can do to BUSY and DONE, with the event that does it. -/
inductive FlagEffect (s s' : State) : Prop where
  | reset (event : IsReset s) (busy : s'.busy = false) (done : s'.done = false)
  | completion (event : IsCoreTurn s) (running : s.phase ≠ .idle) (idle : s'.phase = .idle) (busy : s'.busy = false)
      (done : s'.done = true)
  | start (v : Word) (event : IsCtrlWrite s v) (word : StartsCommand v) (busy : s'.busy = true) (done : s'.done = false)
  | illegal (v : Word) (e : IllegalWord) (event : IsCtrlWrite s v) (word : decodeCmd v = .error e)
      (accepted : s.busy = false) (busy : s'.busy = false) (done : s'.done = true)
  | kept (flags : FlagsKept s s')

theorem step_flags {s s' : State} (h : step s = .next s') : FlagEffect s s' := by
  obtain ⟨q, hq, -⟩ | ⟨event, turn⟩ | ⟨t, q, hq, served⟩ := step_cases h
  · obtain ⟨busy, done⟩ := step_of_isReset ⟨q, hq⟩ h
    exact .reset ⟨q, hq⟩ busy done
  · obtain ⟨running, idle, busy, done⟩ | ⟨-, flags⟩ := (coreTurn_cases turn).flags
    · exact .completion event running idle busy done
    · exact .kept flags
  · obtain ⟨v, rfl⟩ | ⟨u, hu, flags⟩ := hostTransaction_flags t { s with queue := q }
    · have event : IsCtrlWrite s v := ⟨q, hq⟩
      obtain ⟨-, flags⟩ | ⟨accepted, ⟨word, busy, done⟩ | ⟨-, flags⟩ | ⟨e, word, busy, done⟩⟩ :=
        step_ctrlWrite_flags event h
      · exact .kept flags
      · exact .start v event word busy done
      · exact .kept flags
      · exact .illegal v e event word accepted busy done
    · obtain rfl : u = s' := by simpa [hu] using served
      exact .kept flags

theorem FlagEffect.busy_set {s s' : State} (h : FlagEffect s s') (before : s.busy = false) (after : s'.busy = true) :
    ∃ v, IsCtrlWrite s v ∧ StartsCommand v := by
  cases h with
  | start v event word => exact ⟨v, event, word⟩
  | reset _ busy | completion _ _ _ busy | illegal _ _ _ _ _ busy => simp [busy] at after
  | kept flags => simp [flags.1, before] at after

theorem FlagEffect.busy_cleared {s s' : State} (h : FlagEffect s s') (before : s.busy = true) (after : s'.busy = false) :
    IsReset s ∨ (IsCoreTurn s ∧ s.phase ≠ .idle ∧ s'.phase = .idle ∧ s'.done = true) := by
  cases h with
  | reset event => exact .inl event
  | completion event running idle _ done => exact .inr ⟨event, running, idle, done⟩
  | start _ _ _ busy => simp [busy] at after
  | illegal _ _ _ _ accepted => simp [accepted] at before
  | kept flags => simp [flags.1, before] at after

theorem FlagEffect.done_cleared {s s' : State} (h : FlagEffect s s') (before : s.done = true) (after : s'.done = false) :
    IsReset s ∨ ∃ v, IsCtrlWrite s v ∧ StartsCommand v := by
  cases h with
  | reset event => exact .inl event
  | start v event word => exact .inr ⟨v, event, word⟩
  | completion _ _ _ _ done | illegal _ _ _ _ _ _ done => simp [done] at after
  | kept flags => simp [flags.2, before] at after

theorem FlagEffect.done_set {s s' : State} (h : FlagEffect s s') (before : s.done = false) (after : s'.done = true) :
    (IsCoreTurn s ∧ s.phase ≠ .idle ∧ s'.phase = .idle) ∨ ∃ v e, IsCtrlWrite s v ∧ decodeCmd v = .error e := by
  cases h with
  | completion event running idle => exact .inl ⟨event, running, idle⟩
  | illegal v e event word => exact .inr ⟨v, e, event, word⟩
  | reset _ _ done | start _ _ _ _ done => simp [done] at after
  | kept flags => simp [flags.2, before] at after

/-- ENCODE and DECODE set BUSY from idle. -/
theorem exec_start_busy {s : State} {i : Instr} (h : i = .encode ∨ i = .decode) (idle : s.busy = false) :
    ∃ t, exec i s = .next t ∧ t.busy = true := by
  rw [exec_eq, State.command_idle _ idle]
  obtain rfl | rfl := h <;> exact ⟨_, rfl, rfl⟩

/-- Settles O18: the start by `exec`, the changes by the flag effects of a step, the clearings by its event. -/
theorem busyChangesOnlyByStartCompletionReset : Obligations.BusyChangesOnlyByStartCompletionReset := by
  refine ⟨fun s i => exec_start_busy, fun s s' h => ⟨(step_flags h).busy_set, (step_flags h).busy_cleared, ?_, ?_⟩⟩
  · exact fun event => (step_of_isReset event h).1
  · exact fun event running idle => (step_completes event running idle h).1

/-- What an accepted CTRL write does to DONE, by its word. -/
theorem step_ctrlWrite_done {s s' : State} {v : Word} (event : IsCtrlWrite s v) (accepted : s.busy = false)
    (h : step s = .next s') :
    (decodeCmd v = .ok .nop → s'.done = s.done) ∧ (StartsCommand v → s'.done = false)
      ∧ ∀ e, decodeCmd v = .error e → s'.done = true := by
  obtain ⟨busy, -⟩ | ⟨-, ⟨word, -, done⟩ | ⟨word, -, done⟩ | ⟨e, word, -, done⟩⟩ := step_ctrlWrite_flags event h
  · simp [accepted] at busy
  · obtain word | word := word <;> simp [StartsCommand, word, done]
  · simp [StartsCommand, word, done]
  · simp [StartsCommand, word, done]

/-- Settles O19: the changes by the flag effects of a step, what must happen by the step's event and the word written. -/
theorem doneChangesOnlyByStartCompletionReset : Obligations.DoneChangesOnlyByStartCompletionReset := by
  refine fun s s' h => ⟨(step_flags h).done_cleared, (step_flags h).done_set, ?_, ?_, ?_⟩
  · exact fun event => (step_of_isReset event h).2
  · exact fun event running idle => (step_completes event running idle h).2
  · exact fun v event accepted => step_ctrlWrite_done event accepted h

end Sys2Proof.Machine
end

section
/-! The host port's rules (20_memory.md R62 to R66): what each served access answers and changes, and what a refused one
does. -/

namespace Sys2Proof.Machine

theorem State.writeIfIdle_busy {s : State} (f : State → State) (h : s.busy = true) : s.writeIfIdle f = s.errorWrite :=
  if_pos h

theorem State.writeIfIdle_idle {s : State} (f : State → State) (h : s.busy = false) :
    s.writeIfIdle f = (f s).okayWrite := by
  simp [writeIfIdle, h]

theorem bufAccessOk_iff {size index : Word} {width : Nat} :
    bufAccessOk size index width = true ↔ width = 8 ∧ index.toNat < size.toNat := by
  simp [bufAccessOk]

/-! ### REG -/

theorem hostTransaction_readReg {offset value : Word} {s : State} (served : regAccessOk offset 32 = true)
    (holds : s.readReg offset = value) : hostTransaction (.read .reg offset 32) s = .next (s.okayRead value) := by
  rw [← holds]
  exact if_pos served

theorem hostTransaction_writeReg {offset : Word} (served : regAccessOk offset 32 = true) (v : Word) (s : State) :
    hostTransaction (.write .reg offset 32 v) s = regWrite offset v s :=
  if_pos served

theorem hostTransaction_writeKey (v : Word) (s : State) :
    hostTransaction (.write .reg 0x08 32 v) s = .next (s.writeIfIdle fun t => { t with key := v }) := rfl

theorem hostTransaction_writeInLen (v : Word) (s : State) :
    hostTransaction (.write .reg 0x0C 32 v) s = .next (s.writeIfIdle fun t => { t with inLen := v }) := rfl

/-- A write of a register the host cannot write is ignored, with OKAY (R63). -/
theorem hostTransaction_writeReg_ignored {offset : Word} (served : regAccessOk offset 32 = true) (ctrl : offset ≠ 0x00)
    (key : offset ≠ 0x08) (inLen : offset ≠ 0x0C) (v : Word) (s : State) :
    hostTransaction (.write .reg offset 32 v) s = .next s.okayWrite := by
  rw [hostTransaction_writeReg served, regWrite, if_neg ctrl, if_neg key, if_neg inLen]

theorem exec_busy {s : State} (busy : s.busy = true) (i : Instr) : exec i s = .next s.errorWrite := by
  rw [exec_eq, State.command_busy _ busy]

theorem hostTransaction_ctrl_busy {s : State} (busy : s.busy = true) (v : Word) :
    hostTransaction (.write .reg 0x00 32 v) s = .next s.errorWrite := by
  rw [hostTransaction_ctrl, ctrlWrite_eq, State.command_busy _ busy]

/-! ### IBUF and OBUF -/

section
variable {s : State} {i : Word}

theorem hostTransaction_readIbuf (inside : i.toNat < s.params.ibufSize.toNat) :
    hostTransaction (.read .ibuf i 8) s = .next (s.okayRead ((s.ibufByte i.toNat).setWidth 32)) :=
  if_pos (bufAccessOk_iff.mpr ⟨rfl, inside⟩)

theorem hostTransaction_writeIbuf (inside : i.toNat < s.params.ibufSize.toNat) (v : Word) :
    hostTransaction (.write .ibuf i 8 v) s
      = .next (s.writeIfIdle fun t => { t with ibuf := t.ibuf.write i.toNat (v.extractLsb' 0 8) }) :=
  if_pos (bufAccessOk_iff.mpr ⟨rfl, inside⟩)

theorem hostTransaction_readIbuf_width {w : Nat} (width : w ≠ 8) :
    hostTransaction (.read .ibuf i w) s = .next s.errorRead :=
  if_neg fun ok => width (bufAccessOk_iff.mp ok).1

theorem hostTransaction_writeIbuf_width {w : Nat} (width : w ≠ 8) (v : Word) :
    hostTransaction (.write .ibuf i w v) s = .next s.errorWrite :=
  if_neg fun ok => width (bufAccessOk_iff.mp ok).1

theorem hostTransaction_readObuf (inside : i.toNat < s.params.obufSize.toNat) :
    hostTransaction (.read .obuf i 8) s = .next (s.readObuf i) :=
  if_pos (bufAccessOk_iff.mpr ⟨rfl, inside⟩)

theorem hostTransaction_readObuf_width {w : Nat} (width : w ≠ 8) :
    hostTransaction (.read .obuf i w) s = .next s.errorRead :=
  if_neg fun ok => width (bufAccessOk_iff.mp ok).1

theorem hostTransaction_writeObuf (w : Nat) (v : Word) :
    hostTransaction (.write .obuf i w v) s = .next s.errorWrite := rfl

theorem State.readObuf_idle (idle : s.busy = false) :
    s.readObuf i = s.okayRead ((s.obufByte i.toNat).setWidth 32) := by
  simp [readObuf, idle]

theorem State.readObuf_busy (busy : s.busy = true) :
    s.readObuf i
      = { s with busyDraw := s.busyDraw + 1 }.okayRead ((Config.freeBusyRead s.busyDraw).setWidth 32) :=
  if_pos busy

end

theorem State.ibufByte_write_same {s t : State} {i : Nat} {b : Byte} (h : t.ibuf = s.ibuf.write i b) :
    t.ibufByte i = b := by
  rw [ibufByte, h, Memory.get?_write_same, Option.getD_some]

theorem State.ibufByte_write_other {s t : State} {i j : Nat} {b : Byte} (canonical : s.ibuf.wf)
    (h : t.ibuf = s.ibuf.write i b) (draw : t.ibufDraw = s.ibufDraw) (other : j ≠ i) :
    t.ibufByte j = s.ibufByte j := by
  rw [ibufByte, ibufByte, h, draw, Memory.get?_write_other canonical b other]

/-- `wdata[7:0]` as a number (R65). -/
theorem lowByte_eq_ofNat (v : Word) : v.extractLsb' 0 8 = BitVec.ofNat 8 (v.toNat % 256) := by
  apply BitVec.eq_of_toNat_eq
  simp

end Sys2Proof.Machine
end

section
/-! What the host gets of the three address spaces (20_memory.md R62 to R66). -/

namespace Sys2Proof.Machine

/-- An accepted IBUF write changes its one byte and nothing else (R65). -/
theorem hostTransaction_writeIbuf_idle {s : State} {i : Word} (inside : i.toNat < s.params.ibufSize.toNat)
    (idle : s.busy = false) (canonical : s.ibuf.wf) (v : Word) :
    ∃ t, hostTransaction (.write .ibuf i 8 v) s = .next t
      ∧ t = { s with ibuf := t.ibuf, responses := ⟨.okay, none⟩ :: s.responses }
      ∧ t.ibuf.wf ∧ t.ibufByte i.toNat = BitVec.ofNat 8 (v.toNat % 256)
      ∧ ∀ j, j ≠ i.toNat → t.ibufByte j = s.ibufByte j := by
  rw [hostTransaction_writeIbuf inside, State.writeIfIdle_idle _ idle, lowByte_eq_ofNat]
  refine ⟨_, rfl, rfl, Memory.wf_write canonical _ _, State.ibufByte_write_same (s := s) rfl, fun j other => ?_⟩
  exact State.ibufByte_write_other canonical rfl rfl other

/-- Settles O24: each clause is the port's rule for that access; the byte written comes from the memory's laws. -/
theorem ibufHostAccess : Obligations.IbufHostAccess := by
  intro s i v inside
  refine ⟨hostTransaction_readIbuf inside, fun busy => ?_, fun idle canonical => ?_, fun w width => ⟨?_, ?_⟩⟩
  · rw [hostTransaction_writeIbuf inside, State.writeIfIdle_busy _ busy]
    rfl
  · exact hostTransaction_writeIbuf_idle inside idle canonical v
  · exact hostTransaction_readIbuf_width width
  · exact hostTransaction_writeIbuf_width width v

/-- Settles O8: the common rule of CTRL writes, for an instruction and for any word. -/
theorem busyCommandRefused : Obligations.BusyCommandRefused :=
  fun _ v busy => ⟨exec_busy busy, hostTransaction_ctrl_busy busy v⟩

/-- Settles O21: a served read answers the register map's value, offset by offset. -/
theorem registerReads : Obligations.RegisterReads := by
  intro s reads
  have read {offset value : Word} (served : regAccessOk offset 32 = true) (holds : s.readReg offset = value) :
      reads offset value := hostTransaction_readReg served holds
  obtain ⟨r30, r34, r38, r3C⟩ := s.readReg_reserved
  exact ⟨read rfl s.readReg_ctrl, read rfl s.readReg_status, read rfl s.readReg_key, read rfl s.readReg_inLen,
    read rfl s.readReg_outLen, read rfl s.readReg_entries, read rfl s.readReg_pad, read rfl s.readReg_declLen,
    read rfl s.readReg_ibufSize, read rfl s.readReg_obufSize, read rfl s.readReg_decTableCap,
    read rfl s.readReg_decCodeCap, read rfl r30, read rfl r34, read rfl r38, read rfl r3C⟩

/-- Settles O22: KEY and IN_LEN by the rule of writes while idle, CTRL by the rule of commands, every other offset served
and ignored. -/
theorem registerWrites : Obligations.RegisterWrites := by
  refine fun s v => ⟨fun idle => ⟨hostTransaction_ctrl s v, ?_, ?_⟩, fun busy o ho => ?_, fun o ho => ?_⟩
  · rw [hostTransaction_writeKey, State.writeIfIdle_idle _ idle]
    rfl
  · rw [hostTransaction_writeInLen, State.writeIfIdle_idle _ idle]
    rfl
  · obtain rfl | rfl | rfl : o = 0x00 ∨ o = 0x08 ∨ o = 0x0C := by simpa using ho
    · exact hostTransaction_ctrl_busy busy v
    · rw [hostTransaction_writeKey, State.writeIfIdle_busy _ busy]
      rfl
    · rw [hostTransaction_writeInLen, State.writeIfIdle_busy _ busy]
      rfl
  · have ignored : regAccessOk o 32 = true ∧ o ≠ 0x00 ∧ o ≠ 0x08 ∧ o ≠ 0x0C := by
      revert o
      simp [regAccessOk]
    obtain ⟨served, ctrl, key, inLen⟩ := ignored
    exact hostTransaction_writeReg_ignored served ctrl key inLen v s

/-- Settles O25: the byte read while busy is the free value of the present draw. -/
theorem obufHostAccess : Obligations.ObufHostAccess := by
  refine fun s i v w => ⟨fun inside => ⟨fun idle => ?_, fun busy => ⟨Config.freeBusyRead s.busyDraw, ?_⟩⟩,
    hostTransaction_readObuf_width, hostTransaction_writeObuf w v⟩
  · rw [hostTransaction_readObuf inside, State.readObuf_idle idle]
    rfl
  · rw [hostTransaction_readObuf inside, State.readObuf_busy busy]
    rfl

end Sys2Proof.Machine
end

section
/-! LOAD as a run (30_encoding.md R99): the byte writes fill IBUF in order, the last write sets IN_LEN. -/

namespace Sys2Proof.Machine

/-- The events of LOAD's byte writes, the first at index `i`. -/
def writeIbufEvents (i : Nat) (bytes : ByteString) : List Event :=
  (bytes.zipIdx i).map fun (b, j) => .transaction (.write .ibuf (BitVec.ofNat 32 j) 8 (b.setWidth 32))

theorem writeIbufEvents_cons (i : Nat) (b : Byte) (bytes : ByteString) :
    writeIbufEvents i (b :: bytes)
      = .transaction (.write .ibuf (BitVec.ofNat 32 i) 8 (b.setWidth 32)) :: writeIbufEvents (i + 1) bytes := rfl

theorem hostEvents_load (bytes : ByteString) :
    hostEvents [.load bytes]
      = writeIbufEvents 0 bytes ++ [.transaction (.write .reg 0x0C 32 (BitVec.ofNat 32 bytes.length))] := by
  simp [hostEvents, HostLine.expand, loadLines, writeIbufEvents]

/-- The state after accepted byte writes at rising indices from `i` on, with `q` left to wait. -/
def State.afterIbufWrites (i : Nat) (bytes : ByteString) (q : List Event) (s : State) : State :=
  { s with
    ibuf := s.ibuf.writeBytes i bytes
    responses := List.replicate bytes.length ⟨.okay, none⟩ ++ s.responses
    queue := q }

theorem State.afterIbufWrites_nil {s : State} (i : Nat) : s.afterIbufWrites i [] s.queue = s := rfl

theorem State.afterIbufWrites_cons (s : State) (i : Nat) (b : Byte) (bytes : ByteString) (q q' : List Event) :
    (s.afterIbufWrites i [b] q').afterIbufWrites (i + 1) bytes q = s.afterIbufWrites i (b :: bytes) q := by
  have okays : List.replicate bytes.length (⟨.okay, none⟩ : Response) ++ ⟨.okay, none⟩ :: s.responses
      = List.replicate (bytes.length + 1) ⟨.okay, none⟩ ++ s.responses := by
    simp [List.replicate_succ']
  simp only [afterIbufWrites, List.length_cons, ← okays]
  rfl

theorem lowByte_setWidth (b : Byte) : (b.setWidth 32).extractLsb' 0 8 = b := by
  apply BitVec.eq_of_toNat_eq
  simpa using b.isLt

/-- A byte write on an idle machine, as a step (20_memory.md R65). -/
theorem step_writeIbuf_idle {s : State} {i : Nat} {b : Byte} {q : List Event}
    (waits : s.queue = .transaction (.write .ibuf (BitVec.ofNat 32 i) 8 (b.setWidth 32)) :: q) (idle : s.busy = false)
    (inside : i < s.params.ibufSize.toNat) : step s = .next (s.afterIbufWrites i [b] q) := by
  have index : (BitVec.ofNat 32 i).toNat = i := Nat.mod_eq_of_lt (by omega)
  rw [step_transaction waits, hostTransaction_writeIbuf (by rwa [index]),
    State.writeIfIdle_idle (s := { s with queue := q }) _ idle, index, lowByte_setWidth]
  rfl

/-- A run of byte writes at rising indices, one step for each byte. -/
theorem run_writeIbufEvents {s : State} {i : Nat} {bytes : ByteString} {q : List Event} (k : Nat)
    (waits : s.queue = writeIbufEvents i bytes ++ q) (idle : s.busy = false)
    (inside : i + bytes.length ≤ s.params.ibufSize.toNat) :
    Sys2Proof.core.run (bytes.length + k) s = Sys2Proof.core.run k (s.afterIbufWrites i bytes q) := by
  induction bytes generalizing i s with
  | nil =>
    obtain rfl : s.queue = q := waits
    rw [List.length_nil, Nat.zero_add, State.afterIbufWrites_nil]
  | cons b bytes ih =>
    rw [List.length_cons] at inside
    have first := step_writeIbuf_idle (q := writeIbufEvents (i + 1) bytes ++ q) waits idle (by omega)
    have rest := ih (s := s.afterIbufWrites i [b] (writeIbufEvents (i + 1) bytes ++ q)) (i := i + 1) rfl idle
      (Nat.add_right_comm i 1 bytes.length ▸ inside)
    rw [List.length_cons, Nat.add_right_comm, run_step first, rest, State.afterIbufWrites_cons]

/-- An IN_LEN write on an idle machine, as a step (20_memory.md R63). -/
theorem step_writeInLen_idle {s : State} {v : Word} {q : List Event}
    (waits : s.queue = .transaction (.write .reg 0x0C 32 v) :: q) (idle : s.busy = false) :
    step s = .next (State.okayWrite { s with inLen := v, queue := q }) := by
  rw [step_transaction waits, hostTransaction_writeInLen, State.writeIfIdle_idle (s := { s with queue := q }) _ idle]

/-- The state LOAD leaves (30_encoding.md R99). -/
def State.afterLoad (bytes : ByteString) (s : State) : State :=
  { s with
    ibuf := s.ibuf.writeBytes 0 bytes
    inLen := BitVec.ofNat 32 bytes.length
    responses := List.replicate (bytes.length + 1) ⟨.okay, none⟩ ++ s.responses
    queue := [] }

theorem run_load {s : State} {bytes : ByteString} (waits : s.queue = hostEvents [.load bytes]) (idle : s.busy = false)
    (fits : bytes.length ≤ s.params.ibufSize.toNat) :
    Sys2Proof.core.run (bytes.length + 1) s = .next (s.afterLoad bytes) := by
  rw [hostEvents_load] at waits
  rw [run_writeIbufEvents 1 waits idle (by rwa [Nat.zero_add])]
  exact run_step (step_writeInLen_idle rfl idle)

/-- What LOAD puts in IBUF: the bytes from index 0 on, and nothing past them. -/
theorem State.afterLoad_ibufByte {s : State} (canonical : s.ibuf.wf) (bytes : ByteString) (j : Nat) :
    (s.afterLoad bytes).ibufByte j = bytes[j]?.getD (s.ibufByte j) := by
  have written : (s.ibuf.writeBytes 0 bytes).get? j = if j < bytes.length then bytes[j]? else s.ibuf.get? j := by
    simpa using Memory.get?_writeBytes canonical 0 bytes j
  simp only [afterLoad, ibufByte, written]
  split
  · next inside => simp [inside]
  · next outside => simp [outside]

theorem State.afterLoad_ibufBytes {s : State} (canonical : s.ibuf.wf) (bytes : ByteString) :
    (s.afterLoad bytes).ibufBytes bytes.length = bytes := by
  apply List.ext_getElem (by simp [ibufBytes])
  intro j _ inside
  simp [ibufBytes, afterLoad_ibufByte canonical, inside]

/-- Settles O26: LOAD's run ends in `State.afterLoad`; the bytes come from the memory's law of `writeBytes`, and the count
fits IN_LEN because IBUF_SIZE does. -/
theorem loadFillsTheInput : Obligations.LoadFillsTheInput := by
  intro s bytes idle canonical fits
  refine ⟨s.afterLoad bytes, run_load rfl idle fits, State.afterLoad_ibufBytes canonical bytes, ?_, fun j past => ?_, rfl,
    rfl⟩
  · exact Nat.mod_eq_of_lt (by omega)
  · rw [State.afterLoad_ibufByte canonical, List.getElem?_eq_none past, Option.getD_none]

end Sys2Proof.Machine
end

section
/-! Command words and their instructions (30_encoding.md R82, R83, R85, R86). -/

namespace Sys2Proof

/-- Settles O1: the command map of R82 on written words, each evaluated. -/
theorem commandWordsDecode : Obligations.CommandWordsDecode := by
  unfold Obligations.CommandWordsDecode
  decide

/-- The words whose reserved field is 0, one for each code of CMD (R81). -/
theorem rsvField_eq_zero_iff_eq {v : Word} : rsvField v = 0 ↔ v = 0 ∨ v = 1 ∨ v = 2 ∨ v = 3 := by
  rw [rsvField_eq_zero]
  bv_omega

/-- Everything the decoder can say of a word. -/
theorem decodeCmd_cases (v : Word) :
    (∃ i, v = encode i ∧ decodeCmd v = .ok i)
      ∨ (v = 3 ∧ decodeCmd v = .error .reservedCommand)
      ∨ (rsvField v ≠ 0 ∧ decodeCmd v = .error .reservedBits) := by
  obtain ⟨nop, enc, dec, three, -, -⟩ := commandWordsDecode
  by_cases reserved : rsvField v = 0
  · obtain rfl | rfl | rfl | rfl := rsvField_eq_zero_iff_eq.mp reserved
    · exact .inl ⟨.nop, rfl, nop⟩
    · exact .inl ⟨.encode, rfl, enc⟩
    · exact .inl ⟨.decode, rfl, dec⟩
    · exact .inr (.inl ⟨rfl, three⟩)
  · exact .inr (.inr ⟨reserved, if_neg reserved⟩)

theorem decodeCmd_encode (i : Instr) : decodeCmd (encode i) = .ok i := by
  obtain ⟨nop, enc, dec, -⟩ := commandWordsDecode
  cases i with
  | nop => exact nop
  | encode => exact enc
  | decode => exact dec

theorem eq_encode_of_decodeCmd {v : Word} {i : Instr} (h : decodeCmd v = .ok i) : v = encode i := by
  obtain ⟨j, word, decoded⟩ | ⟨-, refused⟩ | ⟨-, refused⟩ := decodeCmd_cases v
  · obtain rfl : j = i := by simpa [decoded] using h
    exact word
  · simp [refused] at h
  · simp [refused] at h

/-- The encodings are the numbers up to 2 (R86). -/
theorem exists_eq_encode_iff {v : Word} : (∃ i, v = encode i) ↔ v.toNat ≤ 2 := by
  constructor
  · rintro ⟨i, rfl⟩
    cases i <;> decide
  · intro small
    have : v = 0 ∨ v = 1 ∨ v = 2 := by bv_omega
    obtain rfl | rfl | rfl := this
    · exact ⟨.nop, rfl⟩
    · exact ⟨.encode, rfl⟩
    · exact ⟨.decode, rfl⟩

theorem instr_wellFormed (i : Instr) : i.wellFormed = true := by
  cases i <;> rfl

/-- Settles O2: decoding and encoding are inverse, and the encodings are the three least words. -/
theorem decodeEncodeAgree : Obligations.DecodeEncodeAgree := by
  refine ⟨fun i => ⟨instr_wellFormed i, decodeCmd_encode i⟩, fun _ _ => eq_encode_of_decodeCmd,
    fun v reserved => if_neg reserved, fun v => ?_⟩
  rw [← exists_eq_encode_iff]
  exact exists_congr fun i => ⟨eq_encode_of_decodeCmd, fun word => word ▸ decodeCmd_encode i⟩

end Sys2Proof
end

section
/-! The STATUS word (30_encoding.md R87, R88). -/

namespace Sys2Proof.Machine

/-- Bit by bit: BUSY, DONE, two reserved bits, then the code of RESULT with nothing past its four bits (R87). -/
theorem State.status_getLsbD (s : State) (i : Nat) :
    s.status.getLsbD i
      = if i = 0 then s.busy else if i = 1 then s.done else if i < 4 then false else s.result.code.getLsbD (i - 4) := by
  rw [status, statusWord]
  simp only [BitVec.getLsbD_append]
  match i with
  | 0 | 1 | 2 | 3 => simp
  | j + 4 =>
    have width : s.result.code.getLsbD j = true → j < 4 := BitVec.lt_of_getLsbD
    simpa using width

theorem State.status_getLsbD_code (s : State) (i : Nat) : s.status.getLsbD (i + 4) = s.result.code.getLsbD i := by
  simp [status_getLsbD]

/-- The word as shifted fields, compared bit by bit (R87). -/
theorem State.status_eq_or (s : State) :
    s.status = (s.result.code.setWidth 32 <<< 4) ||| ((BitVec.ofBool s.done).setWidth 32 <<< 1)
      ||| (BitVec.ofBool s.busy).setWidth 32 := by
  apply BitVec.eq_of_getLsbD_eq
  intro i inside
  rw [status_getLsbD]
  match i with
  | 0 | 1 | 2 | 3 => simp
  | j + 4 => simp [inside]

/-- Settles O14: each field is read off the bits of the word. -/
theorem statusLayout : Obligations.StatusLayout := by
  refine fun s => ⟨s.status_eq_or, s.status_getLsbD 0, s.status_getLsbD 1, ?_, ?_, ?_⟩ <;> ext i inside <;>
    rw [BitVec.getElem_extractLsb']
  · rw [s.status_getLsbD, if_neg (by omega), if_neg (by omega), if_pos (by omega)]
    simp
  · rw [Nat.add_comm, s.status_getLsbD_code, BitVec.getLsbD_eq_getElem]
  · rw [show 8 + i = i + 4 + 4 by omega, s.status_getLsbD_code, BitVec.getLsbD_of_ge _ _ (by omega)]
    simp

/-- STATUS of an idle machine whose RESULT is cleared with DONE: the eight words of R88. -/
theorem status_mem_of_idle {s : State} (idle : s.busy = false) (fresh : s.done = false → s.result = .ok) :
    s.status ∈ [(0x00 : Word), 0x02, 0x12, 0x22, 0x32, 0x42, 0x52, 0x62] := by
  unfold State.status
  rw [idle]
  cases completed : s.done with
  | false =>
    rw [fresh completed]
    decide
  | true => cases s.result <;> decide

theorem status_of_busy {s : State} (busy : s.busy = true) (done : s.done = false) (result : s.result = .ok) :
    s.status = 0x01 := by
  rw [State.status, busy, done, result]
  decide

/-- Settles O15: the invariant fixes DONE and RESULT while busy, and bit 0 of the word is BUSY. -/
theorem legalStatusWords : Obligations.LegalStatusWords := by
  refine fun s safe => ⟨⟨fun busy => ?_, fun word => ?_⟩, fun idle => status_mem_of_idle idle safe.freshResult⟩
  · have done := safe.busyNotDone busy
    exact status_of_busy busy done (safe.freshResult done)
  · have bit : s.status.getLsbD 0 = s.busy := s.status_getLsbD 0
    rw [← bit, word]
    rfl

end Sys2Proof.Machine
end

section
/-! The frequency counter (41_tree_builder.md R110, R111): the counters as numbers of occurrences, the present symbols and
the sum of their counts. -/

namespace Sys2Proof.Machine

theorem FreqTable.ext {f g : FreqTable} (h : ∀ b, f.count b = g.count b) : f = g := by
  apply Vector.ext
  intro i inside
  have at_i := h (BitVec.ofNat 8 i)
  simpa [FreqTable.count, Nat.mod_eq_of_lt inside] using at_i

/-- The pass from any counters adds the number of occurrences (modulo 2^32). -/
theorem foldl_bump_count (input : ByteString) (f : FreqTable) (b : Byte) :
    FreqTable.count (input.foldl FreqTable.bump f) b = f.count b + BitVec.ofNat 32 (input.count b) := by
  induction input generalizing f with
  | nil => simp
  | cons x xs ih =>
    rw [List.foldl_cons, ih, FreqTable.count_bump, List.count_cons]
    by_cases same : b = x
    · subst same
      simp [BitVec.ofNat_add, BitVec.add_assoc, BitVec.add_comm 1#32]
    · simp [same, Ne.symm same]

theorem freqCount_count (input : ByteString) (b : Byte) :
    (freqCount input).count b = BitVec.ofNat 32 (input.count b) := by
  have cleared : FreqTable.count (Vector.replicate 256 0) b = 0 := by simp [FreqTable.count]
  rw [freqCount, foldl_bump_count, cleared]
  exact BitVec.zero_add _

/-- No counter wraps, since no symbol occurs more often than the input is long (R110). -/
theorem freqCount_count_toNat {input : ByteString} (short : input.length < 2 ^ 32) (b : Byte) :
    ((freqCount input).count b).toNat = input.count b := by
  have bound : input.count b < 2 ^ 32 := List.count_le_length.trans_lt short
  rw [freqCount_count, BitVec.toNat_ofNat, Nat.mod_eq_of_lt bound]

/-- Settles O27: each counter as a number of occurrences. -/
theorem frequencyCountsOccurrences : Obligations.FrequencyCountsOccurrences :=
  fun _ b short => freqCount_count_toNat short b

theorem freqCount_perm {a b : ByteString} (h : a.Perm b) : freqCount a = freqCount b :=
  FreqTable.ext fun x => by rw [freqCount_count, freqCount_count, h.count_eq]

/-- Settles O31: the code table is a function of the counters. -/
theorem orderOfInputIrrelevant : Obligations.OrderOfInputIrrelevant := by
  intro a b h
  have counters := freqCount_perm h
  exact ⟨counters, by rw [codeTableOf, codeTableOf, counters]⟩

theorem allSymbols_nodup : allSymbols.Nodup := by
  refine List.Nodup.map_on (fun i hi j hj same => ?_) List.nodup_range
  have toNat_eq := congrArg BitVec.toNat same
  simpa [Nat.mod_eq_of_lt (List.mem_range.mp hi), Nat.mod_eq_of_lt (List.mem_range.mp hj)] using toNat_eq

theorem FreqTable.present_eq (f : FreqTable) :
    f.present = (allSymbols.filter fun s => 0 < (f.count s).toNat).map fun s => (s, f.count s) := by
  rw [present, zip_toList_eq, List.filter_map]
  rfl

/-- The counts of the symbols that occur are all the counts: the others are 0 (R111). -/
theorem FreqTable.present_sum (f : FreqTable) :
    (f.present.map fun x => x.2.toNat).sum = (allSymbols.map fun s => (f.count s).toNat).sum := by
  rw [present_eq, List.map_map]
  induction allSymbols with
  | nil => rfl
  | cons s rest ih =>
    rw [List.filter_cons]
    by_cases positive : 0 < (f.count s).toNat
    · simpa [positive] using ih
    · simpa [Nat.eq_zero_of_not_pos positive] using ih

theorem sum_count_allSymbols (input : ByteString) : (allSymbols.map input.count).sum = input.length := by
  rw [← List.sum_toFinset _ allSymbols_nodup]
  have all : ∀ b ∈ (input : Multiset Byte), b ∈ allSymbols.toFinset := fun b _ => List.mem_toFinset.mpr (mem_allSymbols b)
  simpa using Multiset.sum_count_eq_card all

/-- `Σ FREQ[s] = LEN` (R111). -/
theorem freqCount_present_sum {input : ByteString} (short : input.length < 2 ^ 32) :
    ((freqCount input).present.map fun x => x.2.toNat).sum = input.length := by
  rw [FreqTable.present_sum, ← sum_count_allSymbols input]
  simp only [freqCount_count_toNat short]

theorem freqCount_distinct_pos {input : ByteString} (nonempty : input ≠ []) (short : input.length < 2 ^ 32) :
    0 < (freqCount input).distinct := by
  have sum := freqCount_present_sum short
  refine List.length_pos_iff.mpr fun none => nonempty (List.length_eq_zero_iff.mp ?_)
  rw [← sum, none]
  rfl

end Sys2Proof.Machine
end

section
/-! The heap and MERGE (41_tree_builder.md R113, R116, R117). -/

namespace Sys2Proof.Machine

theorem keyLess_iff {nodes : List Node} {a b : Nat} :
    keyLess nodes a b = true ↔
      nodeFreq nodes a < nodeFreq nodes b ∨ (nodeFreq nodes a = nodeFreq nodes b ∧ a < b) := by
  simp [keyLess]

theorem keyLess_trans {nodes : List Node} {a b c : Nat} (ab : keyLess nodes a b = true)
    (bc : keyLess nodes b c = true) : keyLess nodes a c = true := by
  rw [keyLess_iff] at *
  omega

/-- The key order is total, since the index breaks every tie (R113). -/
theorem keyLess_of_not_keyLess {nodes : List Node} {a b : Nat} (h : keyLess nodes a b = false) (ne : a ≠ b) :
    keyLess nodes b a = true := by
  rw [← Bool.not_eq_true, keyLess_iff] at h
  rw [keyLess_iff]
  omega

/-- `n` is the member of the heap with the least key (R116). -/
structure IsLeastKey (nodes : List Node) (heap : List Nat) (n : Nat) : Prop where
  mem : n ∈ heap
  least : ∀ m ∈ heap, m ≠ n → keyLess nodes n m = true

theorem IsLeastKey.singleton (nodes : List Node) (n : Nat) : IsLeastKey nodes [n] n where
  mem := List.mem_singleton_self n
  least _ hm other := absurd (List.mem_singleton.mp hm) other

/-- The earlier least stays when it is below the new member. -/
theorem IsLeastKey.cons_of_keyLess {nodes : List Node} {rest : List Nat} {n x : Nat} (h : IsLeastKey nodes rest n)
    (less : keyLess nodes n x = true) : IsLeastKey nodes (x :: rest) n where
  mem := List.mem_cons_of_mem x h.mem
  least m hm other := by
    obtain rfl | hm := List.mem_cons.mp hm
    · exact less
    · exact h.least m hm other

/-- The new member is the least when the earlier least is not below it. -/
theorem IsLeastKey.cons_of_not_keyLess {nodes : List Node} {rest : List Nat} {n x : Nat} (h : IsLeastKey nodes rest n)
    (notLess : keyLess nodes n x = false) : IsLeastKey nodes (x :: rest) x where
  mem := List.mem_cons_self
  least m hm other := by
    have hm : m ∈ rest := (List.mem_cons.mp hm).resolve_left other
    by_cases same : m = n
    · subst same
      exact keyLess_of_not_keyLess notLess other
    · by_cases ne : n = x
      · exact ne ▸ h.least m hm same
      · exact keyLess_trans (keyLess_of_not_keyLess notLess ne) (h.least m hm same)

theorem exists_heapMin (nodes : List Node) {heap : List Nat} (nonempty : heap ≠ []) :
    ∃ n, heapMin nodes heap = some n ∧ IsLeastKey nodes heap n := by
  induction heap with
  | nil => exact absurd rfl nonempty
  | cons x rest ih =>
    obtain rfl | more := eq_or_ne rest []
    · exact ⟨x, rfl, .singleton nodes x⟩
    · obtain ⟨n, found, least⟩ := ih more
      cases less : keyLess nodes n x with
      | true => exact ⟨n, by simp [heapMin, found, less], least.cons_of_keyLess less⟩
      | false => exact ⟨x, by simp [heapMin, found, less], least.cons_of_not_keyLess less⟩

/-- HEAP_EXTRACT_MIN on a non-empty heap (R116). -/
theorem exists_heapExtractMin (nodes : List Node) {heap : List Nat} (nonempty : heap ≠ []) :
    ∃ n, heapExtractMin nodes heap = some (n, heap.erase n) ∧ IsLeastKey nodes heap n := by
  obtain ⟨n, found, least⟩ := exists_heapMin nodes nonempty
  exact ⟨n, by rw [heapExtractMin, found], least⟩

/-- Settles O28: in a heap without repeats the erased list holds exactly the other members. -/
theorem extractMinTakesTheLeastKey : Obligations.ExtractMinTakesTheLeastKey := by
  intro nodes heap nodup nonempty
  obtain ⟨n, extracted, mem, least⟩ := exists_heapExtractMin nodes nonempty
  have others (m : Nat) : m ∈ heap.erase n ↔ m ∈ heap ∧ m ≠ n := by rw [nodup.mem_erase_iff, and_comm]
  refine ⟨n, heap.erase n, extracted, mem, others, ?_, fun m hm => ?_⟩
  · have := List.length_pos_of_mem mem
    rw [List.length_erase_of_mem mem]
    omega
  · obtain ⟨hm, other⟩ := (others m).mp hm
    exact keyLess_iff.mp (least m hm other)

/-- What MERGE makes of `t` when it joins the nodes `a` and `b` of frequencies `fa` and `fb` (R117). -/
def Forest.joined (t : Forest) (a b : Nat) (fa fb : Word) : Forest :=
  Forest.add { t with heap := (t.heap.erase a).erase b } (.internal (fa + fb) a b)

@[simp] theorem Forest.joined_nodes (t : Forest) (a b : Nat) (fa fb : Word) :
    (t.joined a b fa fb).nodes = t.nodes ++ [.internal (fa + fb) a b] := rfl

@[simp] theorem Forest.joined_heap (t : Forest) (a b : Nat) (fa fb : Word) :
    (t.joined a b fa fb).heap = (t.heap.erase a).erase b ++ [t.nodes.length] := rfl

theorem Forest.mem_joined_heap {t : Forest} (nodup : t.heap.Nodup) {a b : Nat} {fa fb : Word} {m : Nat} :
    m ∈ (t.joined a b fa fb).heap ↔ m = t.nodes.length ∨ (m ∈ t.heap ∧ m ≠ a ∧ m ≠ b) := by
  rw [joined_heap, List.mem_append, List.mem_singleton, (nodup.erase a).mem_erase_iff, nodup.mem_erase_iff]
  tauto

/-- The two nodes that MERGE joins: the least of the heap, then the least of what is left. -/
structure Forest.Joins (t : Forest) (a b : Nat) (na nb : Node) : Prop where
  first : IsLeastKey t.nodes t.heap a
  second : IsLeastKey t.nodes (t.heap.erase a) b
  left : t.nodes[a]? = some na
  right : t.nodes[b]? = some nb

/-- MERGE on a heap of at least two valid nodes (R117). -/
theorem exists_merge {t : Forest} (inside : ∀ n ∈ t.heap, n < t.nodes.length) (two : 2 ≤ t.heap.length) :
    ∃ a b na nb, merge t = some (t.joined a b na.freq nb.freq) ∧ t.Joins a b na nb := by
  have nonempty : t.heap ≠ [] := List.ne_nil_of_length_pos (by omega)
  obtain ⟨a, extractedA, first⟩ := exists_heapExtractMin t.nodes nonempty
  have left : t.heap.erase a ≠ [] := by
    apply List.ne_nil_of_length_pos
    rw [List.length_erase_of_mem first.mem]
    omega
  obtain ⟨b, extractedB, second⟩ := exists_heapExtractMin t.nodes left
  have nodeA := List.getElem?_eq_getElem (inside a first.mem)
  have nodeB := List.getElem?_eq_getElem (inside b (List.mem_of_mem_erase second.mem))
  refine ⟨a, b, _, _, ?_, first, second, nodeA, nodeB⟩
  simp [merge, extractedA, extractedB, nodeA, nodeB, Forest.joined]

section
variable {t : Forest} {a b : Nat} {na nb : Node} (h : t.Joins a b na nb)
include h

theorem Forest.Joins.mem_right : b ∈ t.heap := List.mem_of_mem_erase h.second.mem

/-- The old heap is the two joined nodes and what stays. -/
theorem Forest.Joins.heap_perm : t.heap.Perm (a :: b :: (t.heap.erase a).erase b) :=
  (List.perm_cons_erase h.first.mem).trans ((List.perm_cons_erase h.second.mem).cons a)

theorem Forest.Joins.joined_heap_length : (t.joined a b na.freq nb.freq).heap.length + 1 = t.heap.length := by
  simp [h.heap_perm.length_eq]

theorem Forest.Joins.ne (nodup : t.heap.Nodup) : b ≠ a := (nodup.mem_erase_iff.mp h.second.mem).1

end

/-- Settles O29: the second least is the least once the first is out. -/
theorem mergeJoinsTheTwoLeast : Obligations.MergeJoinsTheTwoLeast := by
  intro t nodup inside two
  obtain ⟨a, b, na, nb, merged, joins⟩ := exists_merge inside two
  have ne := joins.ne nodup
  refine ⟨_, a, b, na, nb, merged, joins.first.mem, joins.mem_right, ne.symm, joins.left, joins.right, rfl,
    fun _ => Forest.mem_joined_heap nodup, joins.joined_heap_length, joins.first.least b joins.mem_right ne,
    fun m hm notA notB => ?_⟩
  exact joins.second.least m (nodup.mem_erase_iff.mpr ⟨notA, hm⟩) notB

end Sys2Proof.Machine
end

section
/-! TREE_BUILD (41_tree_builder.md R112, R118, R119, R121 to R123): the leaves, the invariant of the merge loop, the tree. -/

namespace Sys2Proof.Machine

/-- The leaf of a present symbol (R112). -/
def leafOf (x : Byte × Word) : Node := .leaf x.2 x.1

@[simp] theorem leafOf_freq (x : Byte × Word) : (leafOf x).freq = x.2 := rfl

theorem foldl_add_leaf (xs : List (Byte × Word)) (t : Forest) :
    xs.foldl (fun t x => t.add (.leaf x.2 x.1)) t
      = ⟨t.nodes ++ xs.map leafOf, t.heap ++ List.range' t.nodes.length xs.length⟩ := by
  induction xs generalizing t with
  | nil => simp
  | cons x xs ih => simp [ih, leafOf, List.range'_succ]

/-- LEAF_INIT: one leaf per present symbol, all of them on the heap (R112). -/
theorem leafInit_eq (f : FreqTable) : leafInit f = ⟨f.present.map leafOf, List.range f.distinct⟩ := by
  simp [leafInit, foldl_add_leaf, FreqTable.distinct, List.range_eq_range']

/-- A new node leaves the frequency of every node before it. -/
theorem nodeFreq_append {nodes : List Node} {n : Nat} (more : List Node) (inside : n < nodes.length) :
    nodeFreq (nodes ++ more) n = nodeFreq nodes n := by
  rw [nodeFreq, nodeFreq, List.getElem?_append_left inside]

theorem nodeFreq_of_getElem? {nodes : List Node} {n : Nat} {x : Node} (h : nodes[n]? = some x) :
    nodeFreq nodes n = x.freq.toNat := by
  rw [nodeFreq, h]

theorem map_nodeFreq_range (nodes : List Node) :
    (List.range nodes.length).map (nodeFreq nodes) = nodes.map fun x => x.freq.toNat := by
  apply List.ext_getElem
  · simp
  · intro i _ inside
    have node := List.getElem?_eq_getElem (l := nodes) (i := i) (by simpa using inside)
    simpa using nodeFreq_of_getElem? node

/-- The invariant of the merge loop (R121 to R123): each merge trades one node more for one heap member less, and the heap's
frequencies always add up to the total. -/
structure Forest.Sound (leaves total : Nat) (t : Forest) : Prop where
  nodup : t.heap.Nodup
  inside : ∀ n ∈ t.heap, n < t.nodes.length
  size : t.nodes.length + t.heap.length = 2 * leaves
  sum : (t.heap.map (nodeFreq t.nodes)).sum = total
  newest : ∃ r ∈ t.heap, r + 1 = t.nodes.length
  children : ∀ (i : Nat) (f : Word) (l r : Nat), t.nodes[i]? = some (.internal f l r) →
    l < i ∧ r < i ∧ l ≠ r ∧ f.toNat = nodeFreq t.nodes l + nodeFreq t.nodes r

/-- The leaves meet the invariant, and the counts are the total. -/
theorem leafInit_sound {f : FreqTable} (positive : 0 < f.distinct) :
    (leafInit f).Sound f.distinct (f.present.map fun x => x.2.toNat).sum := by
  have length : (f.present.map leafOf).length = f.distinct := List.length_map _
  rw [leafInit_eq]
  refine
    { nodup := List.nodup_range
      inside := fun n hn => ?_
      size := ?_
      sum := ?_
      newest := ⟨f.distinct - 1, ?_, ?_⟩
      children := fun i g l r internal => ?_ }
  · simpa [length] using hn
  · rw [length, List.length_range, Nat.two_mul]
  · rw [← length, map_nodeFreq_range, List.map_map]
    rfl
  · simpa using positive
  · rw [length]
    omega
  · simp [leafOf] at internal

section
variable {leaves total : Nat} {t : Forest} (h : t.Sound leaves total) {a b : Nat} {na nb : Node} (joins : t.Joins a b na nb)
include h joins

/-- The frequencies on the heap, with those of the two joined nodes in front. -/
theorem Forest.Sound.sum_eq :
    na.freq.toNat + nb.freq.toNat + (((t.heap.erase a).erase b).map (nodeFreq t.nodes)).sum = total := by
  rw [← h.sum, (joins.heap_perm.map _).sum_eq]
  simp [nodeFreq_of_getElem? joins.left, nodeFreq_of_getElem? joins.right, Nat.add_assoc]

/-- The addition of MERGE does not overflow (R123). -/
theorem Forest.Sound.add_toNat (small : total < 2 ^ 32) :
    (na.freq + nb.freq).toNat = na.freq.toNat + nb.freq.toNat := by
  have := h.sum_eq joins
  exact BitVec.toNat_add_of_lt (by omega)

/-- The new member brings back what the joined nodes took off the heap. -/
theorem Forest.Sound.joined_sum (small : total < 2 ^ 32) :
    ((t.joined a b na.freq nb.freq).heap.map (nodeFreq (t.joined a b na.freq nb.freq).nodes)).sum = total := by
  have new : nodeFreq (t.joined a b na.freq nb.freq).nodes t.nodes.length = na.freq.toNat + nb.freq.toNat := by
    rw [← h.add_toNat joins small]
    exact nodeFreq_of_getElem? List.getElem?_concat_length
  have old : ((t.heap.erase a).erase b).map (nodeFreq (t.joined a b na.freq nb.freq).nodes)
      = ((t.heap.erase a).erase b).map (nodeFreq t.nodes) :=
    List.map_congr_left fun m hm =>
      nodeFreq_append _ (h.inside m (List.mem_of_mem_erase (List.mem_of_mem_erase hm)))
  rw [joined_heap, List.map_append, List.sum_append, old, List.map_singleton, List.sum_singleton, new, Nat.add_comm]
  exact h.sum_eq joins

/-- The old internal nodes keep their children, the new one has `a` and `b`. -/
theorem Forest.Sound.joined_children (small : total < 2 ^ 32) {i : Nat} {f : Word} {l r : Nat}
    (internal : (t.joined a b na.freq nb.freq).nodes[i]? = some (.internal f l r)) :
    l < i ∧ r < i ∧ l ≠ r ∧ f.toNat = nodeFreq (t.joined a b na.freq nb.freq).nodes l
      + nodeFreq (t.joined a b na.freq nb.freq).nodes r := by
  rw [joined_nodes] at internal ⊢
  obtain before | rfl | after := Nat.lt_trichotomy i t.nodes.length
  · rw [List.getElem?_append_left before] at internal
    obtain ⟨hl, hr, ne, split⟩ := h.children i f l r internal
    rw [nodeFreq_append _ (hl.trans before), nodeFreq_append _ (hr.trans before)]
    exact ⟨hl, hr, ne, split⟩
  · rw [List.getElem?_concat_length] at internal
    cases internal
    have aInside := h.inside a joins.first.mem
    have bInside := h.inside b joins.mem_right
    rw [nodeFreq_append _ aInside, nodeFreq_append _ bInside, nodeFreq_of_getElem? joins.left,
      nodeFreq_of_getElem? joins.right]
    exact ⟨aInside, bInside, (joins.ne h.nodup).symm, h.add_toNat joins small⟩
  · rw [List.getElem?_eq_none (by simpa using after)] at internal
    cases internal

/-- MERGE keeps the invariant. -/
theorem Forest.Sound.joined (small : total < 2 ^ 32) : (t.joined a b na.freq nb.freq).Sound leaves total where
  nodup := by
    refine ((h.nodup.erase a).erase b).append (List.nodup_singleton _) (List.disjoint_singleton.mpr fun again => ?_)
    exact absurd (h.inside _ (List.mem_of_mem_erase (List.mem_of_mem_erase again))) (Nat.lt_irrefl _)
  inside n hn := by
    rw [joined_nodes, List.length_append, List.length_singleton]
    obtain rfl | ⟨hn, -, -⟩ := (mem_joined_heap h.nodup).mp hn
    · exact Nat.lt_succ_self _
    · exact (h.inside n hn).trans (Nat.lt_succ_self _)
  size := by
    have := joins.joined_heap_length
    have := h.size
    rw [joined_nodes, List.length_append, List.length_singleton]
    omega
  sum := h.joined_sum joins small
  newest := ⟨t.nodes.length, (mem_joined_heap h.nodup).mpr (.inl rfl), by simp⟩
  children _ _ _ _ internal := h.joined_children joins small internal

end

/-- Under the invariant MERGE succeeds, keeps it and shrinks the heap by one (R118). -/
theorem Forest.Sound.exists_merge {leaves total : Nat} {t : Forest} (h : t.Sound leaves total) (small : total < 2 ^ 32)
    (more : 1 < t.heap.length) : ∃ t', merge t = some t' ∧ t'.Sound leaves total ∧ t'.heap.length + 1 = t.heap.length := by
  obtain ⟨a, b, na, nb, merged, joins⟩ := Machine.exists_merge h.inside more
  exact ⟨_, merged, h.joined joins small, joins.joined_heap_length⟩

/-- Enough rounds leave one member at most, when merges succeed and keep `P` (R118). -/
theorem mergeLoop_ends {P : Forest → Prop}
    (merges : ∀ t, P t → 1 < t.heap.length → ∃ t', merge t = some t' ∧ P t' ∧ t'.heap.length + 1 = t.heap.length)
    {rounds : Nat} {t : Forest} (start : P t) (enough : t.heap.length ≤ rounds + 1) :
    ∃ u, mergeLoop rounds t = some u ∧ P u ∧ u.heap.length ≤ 1 := by
  induction rounds generalizing t with
  | zero => exact ⟨t, rfl, start, enough⟩
  | succ rounds ih =>
    by_cases more : 1 < t.heap.length
    · obtain ⟨t', merged, keeps, shrinks⟩ := merges t start more
      obtain ⟨u, ends⟩ := ih keeps (by omega)
      exact ⟨u, by simpa [mergeLoop, more, merged] using ends⟩
    · exact ⟨t, by simp [mergeLoop, more], start, Nat.le_of_not_lt more⟩

theorem treeBuild_eq_some_iff {f : FreqTable} {t : Forest} {root : Nat} :
    treeBuild f = some (t, root) ↔ mergeLoop (leafInit f).heap.length (leafInit f) = some t ∧ t.heap = [root] := by
  unfold treeBuild
  cases mergeLoop (leafInit f).heap.length (leafInit f) with
  | none => simp
  | some u =>
    obtain ⟨nodes, heap⟩ := u
    simp only [Option.some.injEq]
    constructor
    · intro built
      split at built <;> cases built
      exact ⟨rfl, rfl⟩
    · rintro ⟨rfl, rfl⟩
      rfl

/-- TREE_BUILD on counters that do not overflow ends in the invariant, with ROOT alone on the heap (R118). -/
theorem exists_treeBuild {f : FreqTable} {total : Nat} (positive : 0 < f.distinct)
    (sum : (f.present.map fun x => x.2.toNat).sum = total) (small : total < 2 ^ 32) :
    ∃ t root, treeBuild f = some (t, root) ∧ t.heap = [root] ∧ t.Sound f.distinct total := by
  obtain ⟨t, ran, sound, atMostOne⟩ := mergeLoop_ends (P := Forest.Sound f.distinct total)
    (fun _ kept => kept.exists_merge small) (sum ▸ leafInit_sound positive) (Nat.le_succ _)
  obtain ⟨r, mem, -⟩ := sound.newest
  obtain ⟨root, alone⟩ := List.length_eq_one_iff.mp (Nat.le_antisymm atMostOne (List.length_pos_of_mem mem))
  exact ⟨t, root, treeBuild_eq_some_iff.mpr ⟨ran, alone⟩, alone, sound⟩

/-- Settles O30: the invariant of the merge loop, read on a heap of one member. -/
theorem treeShape : Obligations.TreeShape := by
  intro input nonempty short
  obtain ⟨t, root, built, alone, sound⟩ :=
    exists_treeBuild (freqCount_distinct_pos nonempty short) (freqCount_present_sum short) short
  obtain ⟨r, mem, last⟩ := sound.newest
  obtain rfl : r = root := by simpa [alone] using mem
  have size := sound.size
  have sum := sound.sum
  simp only [alone, List.length_singleton, List.map_singleton, List.sum_singleton] at size sum
  exact ⟨t, r, built, by omega, last, alone, sum, sound.children⟩

/-- The only symbol that occurs in `n` copies of it (R111). -/
theorem freqCount_replicate_present {n : Nat} (positive : 0 < n) (small : n < 2 ^ 32) (b : Byte) :
    (freqCount (List.replicate n b)).present = [(b, BitVec.ofNat 32 n)] := by
  have count (s : Byte) : ((freqCount (List.replicate n b)).count s).toNat = if s = b then n else 0 := by
    rw [freqCount_count_toNat (by simpa using small), List.count_replicate]
    simp only [beq_iff_eq, eq_comm (a := b)]
  have occurs : (fun s => decide (0 < ((freqCount (List.replicate n b)).count s).toNat)) = fun s => s == b := by
    funext s
    by_cases same : s = b <;> simp [count, same, positive]
  rw [FreqTable.present_eq, occurs, List.filter_beq, List.count_eq_one_of_mem allSymbols_nodup (mem_allSymbols b)]
  simp [freqCount_count]

/-- One present symbol: its leaf is the whole tree (R119). -/
theorem treeBuild_of_present_singleton {f : FreqTable} {x : Byte × Word} (only : f.present = [x]) :
    treeBuild f = some (⟨[leafOf x], [0]⟩, 0) := by
  have leaf : leafInit f = ⟨[leafOf x], [0]⟩ := by
    rw [leafInit_eq, FreqTable.distinct, only]
    rfl
  rw [treeBuild_eq_some_iff, leaf]
  exact ⟨rfl, rfl⟩

theorem codeGen_leaf (x : Byte × Word) : codeGen [leafOf x] 0 = some (visitLeaf codeClear x.1 []) := rfl

theorem codeClear_entry (s : Byte) : (codeClear.entry s).present = false := by
  simp [codeClear, CodeTable.entry]

/-- Settles O32: no merge, and the walk ends at the root at once. -/
theorem singleSymbolHasEmptyCode : Obligations.SingleSymbolHasEmptyCode := by
  intro b n positive small
  have built := treeBuild_of_present_singleton (freqCount_replicate_present positive small b)
  refine ⟨built, _, (codeTableOf_eq_codeGen built).trans (codeGen_leaf _), ?_, fun x other => ?_⟩
  · rw [CodeTable.entry_visitLeaf, if_pos rfl]
    rfl
  · rw [CodeTable.entry_visitLeaf, if_neg other, codeClear_entry]

end Sys2Proof.Machine
end

section
/-! Code trees: the tree that TREE_BUILD's arena spells, as an inductive type, and the laws of its codes as paths
(42_code_generator.md R143 to R148). -/

namespace Sys2Proof.Machine

/-- A tree with a symbol at each leaf, the arena's indices and frequencies left out. -/
inductive CodeTree where
  | leaf (sym : Byte)
  | branch (left right : CodeTree)

/-- One bit more in front of a code. -/
def prependBit (bit : Bool) (x : Byte × BitString) : Byte × BitString := (x.1, bit :: x.2)

theorem prependBit_bits_length (bit : Bool) (x : Byte × BitString) : (prependBit bit x).2.length = x.2.length + 1 := rfl

/-- The leaves' symbols with their paths, left first (R141, R143). -/
def CodeTree.codes : CodeTree → List (Byte × BitString)
  | .leaf sym => [(sym, [])]
  | .branch left right => left.codes.map (prependBit false) ++ right.codes.map (prependBit true)

/-- The leaves' symbols, left first. -/
def CodeTree.symbols (T : CodeTree) : List Byte := T.codes.map Prod.fst

@[simp] theorem CodeTree.symbols_leaf (sym : Byte) : (leaf sym).symbols = [sym] := rfl

@[simp] theorem CodeTree.symbols_branch (left right : CodeTree) :
    (branch left right).symbols = left.symbols ++ right.symbols := by
  simp [symbols, codes, prependBit, Function.comp_def]

@[simp] theorem CodeTree.codes_length_branch (left right : CodeTree) :
    (branch left right).codes.length = left.codes.length + right.codes.length := by
  simp [codes]

@[simp] theorem CodeTree.mem_codes_leaf {sym : Byte} {x : Byte × BitString} :
    x ∈ (leaf sym).codes ↔ x = (sym, []) := List.mem_singleton

theorem CodeTree.mem_codes_branch {left right : CodeTree} {x : Byte × BitString} :
    x ∈ (branch left right).codes
      ↔ (∃ y ∈ left.codes, prependBit false y = x) ∨ ∃ y ∈ right.codes, prependBit true y = x := by
  simp only [codes, List.mem_append, List.mem_map]

theorem CodeTree.codes_length_pos (T : CodeTree) : 0 < T.codes.length := by
  induction T with
  | leaf sym => exact Nat.one_pos
  | branch left right ihl _ =>
    rw [codes_length_branch]
    omega

/-- Each step down a path leaves at least one leaf on the other side (R148). -/
theorem CodeTree.bits_length_lt {T : CodeTree} {x : Byte × BitString} (h : x ∈ T.codes) :
    x.2.length < T.codes.length := by
  induction T generalizing x with
  | leaf sym =>
    rw [mem_codes_leaf.mp h]
    exact Nat.one_pos
  | branch left right ihl ihr =>
    have := left.codes_length_pos
    have := right.codes_length_pos
    rw [codes_length_branch]
    obtain ⟨y, inLeft, rfl⟩ | ⟨y, inRight, rfl⟩ := mem_codes_branch.mp h
    · have := ihl inLeft
      rw [prependBit_bits_length]
      omega
    · have := ihr inRight
      rw [prependBit_bits_length]
      omega

/-- A path to a leaf does not go on to another leaf (R145). -/
theorem CodeTree.eq_of_bits_prefix {T : CodeTree} {x y : Byte × BitString} (hx : x ∈ T.codes) (hy : y ∈ T.codes)
    (starts : x.2 <+: y.2) : x = y := by
  induction T generalizing x y with
  | leaf sym => rw [mem_codes_leaf.mp hx, mem_codes_leaf.mp hy]
  | branch left right ihl ihr =>
    obtain ⟨x, xMem, rfl⟩ | ⟨x, xMem, rfl⟩ := mem_codes_branch.mp hx <;>
      obtain ⟨y, yMem, rfl⟩ | ⟨y, yMem, rfl⟩ := mem_codes_branch.mp hy <;>
      obtain ⟨bit, rest⟩ := List.cons_prefix_cons.mp starts
    · rw [ihl xMem yMem rest]
    · cases bit
    · cases bit
    · rw [ihr xMem yMem rest]

/-- A code's part of Kraft's sum, scaled by `2^K`. -/
def kraftTerm (K : Nat) (x : Byte × BitString) : Nat := 2 ^ (K - x.2.length)

theorem kraftTerm_prependBit (K : Nat) (bit : Bool) (x : Byte × BitString) :
    kraftTerm (K + 1) (prependBit bit x) = kraftTerm K x := by
  rw [kraftTerm, prependBit_bits_length, Nat.add_sub_add_right, kraftTerm]

/-- Each half of a branch has half of the sum (R147). -/
theorem CodeTree.sum_kraftTerm {T : CodeTree} {K : Nat} (deep : T.codes.length ≤ K + 1) :
    (T.codes.map (kraftTerm K)).sum = 2 ^ K := by
  induction T generalizing K with
  | leaf sym => simp [codes, kraftTerm]
  | branch left right ihl ihr =>
    have := left.codes_length_pos
    have := right.codes_length_pos
    rw [codes_length_branch] at deep
    obtain ⟨K, rfl⟩ : ∃ k, K = k + 1 := ⟨K - 1, by omega⟩
    have half (bit : Bool) : kraftTerm (K + 1) ∘ prependBit bit = kraftTerm K := funext (kraftTerm_prependBit K bit)
    rw [codes, List.map_append, List.sum_append, List.map_map, List.map_map, half, half, ihl (by omega), ihr (by omega),
      Nat.pow_succ, Nat.mul_two]

end Sys2Proof.Machine
end

section
/-! The code table of a code tree (42_code_generator.md R142, R146). -/

namespace Sys2Proof.Machine

/-- The entry VISIT_LEAF writes (R142). -/
def codeEntryOf (bits : BitString) : CodeEntry :=
  { present := true, len := BitVec.ofNat 8 bits.length, bits := bits }

@[simp] theorem codeEntryOf_bits (bits : BitString) : (codeEntryOf bits).bits = bits := rfl

@[simp] theorem codeEntryOf_present (bits : BitString) : (codeEntryOf bits).present = true := rfl

/-- VISIT_LEAF for one code after the other. -/
def writeCodes (xs : List (Byte × BitString)) (c : CodeTable) : CodeTable :=
  xs.foldl (fun c x => visitLeaf c x.1 x.2) c

theorem writeCodes_append (xs ys : List (Byte × BitString)) (c : CodeTable) :
    writeCodes (xs ++ ys) c = writeCodes ys (writeCodes xs c) := List.foldl_append

/-- What an entry holds after the codes are written: its old contents, or a code of its symbol. -/
theorem writeCodes_entry_cases (xs : List (Byte × BitString)) (c : CodeTable) (s : Byte) :
    (s ∉ xs.map Prod.fst ∧ (writeCodes xs c).entry s = c.entry s)
      ∨ ∃ bits, (s, bits) ∈ xs ∧ (writeCodes xs c).entry s = codeEntryOf bits := by
  induction xs generalizing c with
  | nil => exact .inl ⟨List.not_mem_nil, rfl⟩
  | cons x xs ih =>
    obtain ⟨later, entry⟩ | ⟨bits, mem, entry⟩ := ih (visitLeaf c x.1 x.2)
    · rw [CodeTable.entry_visitLeaf] at entry
      by_cases same : s = x.1
      · rw [if_pos same] at entry
        exact .inr ⟨x.2, same ▸ List.mem_cons_self, entry⟩
      · rw [if_neg same] at entry
        exact .inl ⟨by simp [same, later], entry⟩
    · exact .inr ⟨bits, List.mem_cons_of_mem x mem, entry⟩

/-- CODE after the walk of the tree. -/
def CodeTree.table (T : CodeTree) : CodeTable := writeCodes T.codes codeClear

theorem CodeTree.table_entry_cases (T : CodeTree) (s : Byte) :
    (s ∉ T.symbols ∧ (T.table.entry s).present = false)
      ∨ ∃ bits, (s, bits) ∈ T.codes ∧ T.table.entry s = codeEntryOf bits := by
  obtain ⟨absent, entry⟩ | written := writeCodes_entry_cases T.codes codeClear s
  · exact .inl ⟨absent, (congrArg CodeEntry.present entry).trans (codeClear_entry s)⟩
  · exact .inr written

theorem CodeTree.mem_symbols_of_mem_codes {T : CodeTree} {x : Byte × BitString} (h : x ∈ T.codes) : x.1 ∈ T.symbols :=
  List.mem_map_of_mem h

theorem CodeTree.table_present_iff {T : CodeTree} {s : Byte} : (T.table.entry s).present = true ↔ s ∈ T.symbols := by
  obtain ⟨absent, entry⟩ | ⟨bits, mem, entry⟩ := T.table_entry_cases s
  · simp [absent, entry]
  · simpa [entry] using mem_symbols_of_mem_codes mem

/-- A present entry is that of a code of its symbol. -/
theorem CodeTree.exists_code_of_present {T : CodeTree} {s : Byte} (present : (T.table.entry s).present = true) :
    ∃ bits, (s, bits) ∈ T.codes ∧ T.table.entry s = codeEntryOf bits :=
  (T.table_entry_cases s).resolve_left fun absent => absent.1 (table_present_iff.mp present)

/-- When no symbol has two leaves, each code of the tree is the table's. -/
theorem CodeTree.table_entry_of_mem_codes {T : CodeTree} (nodup : T.symbols.Nodup) {x : Byte × BitString}
    (h : x ∈ T.codes) : T.table.entry x.1 = codeEntryOf x.2 := by
  obtain ⟨bits, mem, entry⟩ := exists_code_of_present (table_present_iff.mpr (mem_symbols_of_mem_codes h))
  have same : (x.1, bits) = x := List.inj_on_of_nodup_map nodup mem h rfl
  rw [entry, ← same]

theorem CodeTable.present_eq (c : CodeTable) :
    c.present = (allSymbols.filter fun s => (c.entry s).present).map fun s => (s, c.entry s) := by
  rw [present, zip_toList_eq, List.filter_map]
  rfl

theorem CodeTable.present_nodup (c : CodeTable) : c.present.Nodup := by
  rw [present_eq]
  exact (allSymbols_nodup.filter _).map fun _ _ same => congrArg Prod.fst same

/-- The table's present entries are the tree's codes, each once (R146). -/
theorem CodeTree.table_present_perm {T : CodeTree} (nodup : T.symbols.Nodup) :
    T.table.present.Perm (T.codes.map fun x => (x.1, codeEntryOf x.2)) := by
  have entriesNodup : (T.codes.map fun x => (x.1, codeEntryOf x.2)).Nodup :=
    (List.Nodup.of_map _ nodup).map (Function.LeftInverse.injective (g := fun y => (y.1, y.2.bits)) fun _ => rfl)
  refine (List.perm_ext_iff_of_nodup T.table.present_nodup entriesNodup).mpr fun ⟨s, e⟩ => ?_
  rw [CodeTable.mem_present, List.mem_map]
  constructor
  · rintro ⟨rfl, present⟩
    obtain ⟨bits, mem, entry⟩ := exists_code_of_present present
    exact ⟨(s, bits), mem, by rw [entry]⟩
  · rintro ⟨x, mem, same⟩
    cases same
    rw [table_entry_of_mem_codes nodup mem]
    exact ⟨rfl, rfl⟩

end Sys2Proof.Machine
end

section
/-! Which tree an arena spells at a node, and that the walk of the arena writes the codes of that tree
(42_code_generator.md R141, R143). -/

namespace Sys2Proof.Machine

/-- The arena spells the tree `T` at node `n`. -/
inductive IsTreeAt (nodes : List Node) : Nat → CodeTree → Prop
  | leaf {n : Nat} {f : Word} {sym : Byte} (node : nodes[n]? = some (.leaf f sym)) : IsTreeAt nodes n (.leaf sym)
  | branch {n : Nat} {f : Word} {l r : Nat} {left right : CodeTree} (node : nodes[n]? = some (.internal f l r))
      (atLeft : IsTreeAt nodes l left) (atRight : IsTreeAt nodes r right) : IsTreeAt nodes n (.branch left right)

theorem getElem?_append_of_eq_some {nodes : List Node} {n : Nat} {x : Node} (more : List Node)
    (node : nodes[n]? = some x) : (nodes ++ more)[n]? = some x := by
  obtain ⟨inside, -⟩ := List.getElem?_eq_some_iff.mp node
  rw [List.getElem?_append_left inside, node]

/-- New nodes leave the trees of the old ones. -/
theorem IsTreeAt.append {nodes : List Node} {n : Nat} {T : CodeTree} (more : List Node) (h : IsTreeAt nodes n T) :
    IsTreeAt (nodes ++ more) n T := by
  induction h with
  | leaf node => exact .leaf (getElem?_append_of_eq_some more node)
  | branch node _ _ ihl ihr => exact .branch (getElem?_append_of_eq_some more node) ihl ihr

/-- The codes of the tree at a node whose own path is `p`. -/
def CodeTree.codesUnder (p : BitString) (T : CodeTree) : List (Byte × BitString) := T.codes.map fun x => (x.1, p ++ x.2)

theorem CodeTree.codesUnder_nil (T : CodeTree) : T.codesUnder [] = T.codes := List.map_id' T.codes

theorem CodeTree.codesUnder_branch (p : BitString) (left right : CodeTree) :
    (branch left right).codesUnder p = left.codesUnder (p ++ [false]) ++ right.codesUnder (p ++ [true]) := by
  simp [codesUnder, codes, prependBit, Function.comp_def]

theorem writeCodes_codesUnder_leaf (sym : Byte) (p : BitString) (c : CodeTable) :
    writeCodes ((CodeTree.leaf sym).codesUnder p) c = visitLeaf c sym p := by
  simp [writeCodes, CodeTree.codesUnder, CodeTree.codes]

/-- A tree is less deep than it has leaves, so a bound of as many is enough. -/
theorem walk_eq_writeCodes {nodes : List Node} {n : Nat} {T : CodeTree} (h : IsTreeAt nodes n T) {depth : Nat}
    (enough : T.codes.length ≤ depth) (p : BitString) (c : CodeTable) :
    walk nodes depth n p c = some (writeCodes (T.codesUnder p) c) := by
  obtain ⟨depth, rfl⟩ : ∃ d, depth = d + 1 := ⟨depth - 1, by have := T.codes_length_pos; omega⟩
  induction h generalizing depth p c with
  | leaf node => rw [walk, node, writeCodes_codesUnder_leaf]
  | @branch n f l r left right node _ _ ihl ihr =>
    rw [CodeTree.codes_length_branch] at enough
    have := left.codes_length_pos
    have := right.codes_length_pos
    obtain ⟨depth, rfl⟩ : ∃ d, depth = d + 1 := ⟨depth - 1, by omega⟩
    rw [walk, node, CodeTree.codesUnder_branch, writeCodes_append]
    simp only [ihl _ _ depth (by omega), ihr _ _ depth (by omega)]

/-- A walk that answers has walked a tree. -/
theorem exists_isTreeAt_of_walk {nodes : List Node} {depth n : Nat} {p : BitString} {c c' : CodeTable}
    (walked : walk nodes depth n p c = some c') :
    ∃ T, IsTreeAt nodes n T ∧ c' = writeCodes (T.codesUnder p) c := by
  induction depth generalizing n p c c' with
  | zero => cases walked
  | succ depth ih =>
    rw [walk] at walked
    split at walked
    case h_1 => cases walked
    case h_2 f sym node =>
      cases walked
      exact ⟨.leaf sym, .leaf node, (writeCodes_codesUnder_leaf sym p c).symm⟩
    case h_3 f l r node =>
      split at walked
      case h_1 => cases walked
      case h_2 c₁ walkedLeft =>
        obtain ⟨left, atLeft, rfl⟩ := ih walkedLeft
        obtain ⟨right, atRight, rfl⟩ := ih walked
        exact ⟨.branch left right, .branch node atLeft atRight, by
          rw [CodeTree.codesUnder_branch, writeCodes_append]⟩

/-- CODEGEN answers the table of the tree at the root (R141). -/
theorem codeGen_eq_table {nodes : List Node} {root : Nat} {T : CodeTree} (h : IsTreeAt nodes root T)
    (enough : T.codes.length ≤ nodes.length) : codeGen nodes root = some T.table := by
  rw [codeGen, walk_eq_writeCodes h enough, T.codesUnder_nil]
  rfl

theorem exists_isTreeAt_of_codeGen {nodes : List Node} {root : Nat} {c : CodeTable}
    (generated : codeGen nodes root = some c) : ∃ T, IsTreeAt nodes root T ∧ c = T.table := by
  obtain ⟨T, spelled, rfl⟩ := exists_isTreeAt_of_walk generated
  exact ⟨T, spelled, by rw [T.codesUnder_nil]; rfl⟩

/-- Each code of the tree leads from its node to a leaf with its symbol (R143). -/
theorem IsTreeAt.follow_code {nodes : List Node} {n : Nat} {T : CodeTree} (h : IsTreeAt nodes n T)
    {x : Byte × BitString} (code : x ∈ T.codes) : ∃ f, follow nodes n x.2 = some (.leaf f x.1) := by
  induction h generalizing x with
  | leaf node =>
    rw [CodeTree.mem_codes_leaf.mp code]
    exact ⟨_, node⟩
  | branch node _ _ ihl ihr =>
    obtain ⟨y, hy, rfl⟩ | ⟨y, hy, rfl⟩ := CodeTree.mem_codes_branch.mp code
    · simpa [prependBit, follow, node] using ihl hy
    · simpa [prependBit, follow, node] using ihr hy

/-- Settles O33: the walk that answered has walked a tree, whose codes are its paths. -/
theorem codesArePathLabels : Obligations.CodesArePathLabels := by
  intro nodes root c generated b present
  obtain ⟨T, spelled, rfl⟩ := exists_isTreeAt_of_codeGen generated
  obtain ⟨bits, code, entry⟩ := CodeTree.exists_code_of_present present
  rw [entry]
  exact spelled.follow_code code

end Sys2Proof.Machine
end

section
/-! The trees on the heap: each merge joins two of them, so that their leaves are always the symbols that occur, each once
(41_tree_builder.md R112, R117, 42_code_generator.md R146). -/

namespace Sys2Proof.Machine

/-- The heap's members spell trees whose leaves are `symbols` in some order. -/
def Forest.Spells (symbols : List Byte) (t : Forest) : Prop :=
  ∃ trees, List.Forall₂ (IsTreeAt t.nodes) t.heap trees ∧ (trees.flatMap CodeTree.symbols).Perm symbols

theorem isTreeAt_leafOf {xs : List (Byte × Word)} {i : Nat} (inside : i < xs.length) :
    IsTreeAt (xs.map leafOf) i (.leaf xs[i].1) :=
  .leaf (f := xs[i].2) (by simp [leafOf, inside])

theorem leafInit_spells (f : FreqTable) : (leafInit f).Spells (f.present.map Prod.fst) := by
  rw [leafInit_eq]
  refine ⟨f.present.map fun x => .leaf x.1, List.forall₂_iff_get.mpr ⟨?_, fun i _ inside => ?_⟩, ?_⟩
  · simp [FreqTable.distinct]
  · have inside : i < f.present.length := by simpa using inside
    simpa using isTreeAt_leafOf inside
  · simp [List.flatMap_map, ← List.map_eq_flatMap]

/-- MERGE joins the trees of its two nodes under the new node. -/
theorem Forest.Spells.joined {symbols : List Byte} {t : Forest} (h : t.Spells symbols) {a b : Nat} {na nb : Node}
    (joins : t.Joins a b na nb) : (t.joined a b na.freq nb.freq).Spells symbols := by
  obtain ⟨trees, spelled, leaves⟩ := h
  obtain ⟨_, split, arranged⟩ := List.perm_comp_forall₂ joins.heap_perm.symm spelled
  cases split with
  | @cons _ left _ _ atLeft split =>
    cases split with
    | @cons _ right _ rest atRight others =>
      have node : (t.joined a b na.freq nb.freq).nodes[t.nodes.length]? = some (.internal (na.freq + nb.freq) a b) :=
        List.getElem?_concat_length
      refine ⟨rest ++ [.branch left right], List.rel_append ?_ (.cons ?_ .nil), ?_⟩
      · exact others.imp fun _ _ old => old.append _
      · exact .branch node (atLeft.append _) (atRight.append _)
      · have order : (rest ++ [CodeTree.branch left right]).flatMap CodeTree.symbols
            = rest.flatMap CodeTree.symbols ++ (left.symbols ++ right.symbols) := by simp
        rw [order]
        refine List.perm_append_comm.trans (.trans ?_ leaves)
        simpa using arranged.flatMap_right CodeTree.symbols

/-- Under the invariant of the merge loop MERGE succeeds and keeps the invariant and the leaves. -/
theorem Forest.Sound.exists_merge_spells {leaves total : Nat} {symbols : List Byte} {t : Forest}
    (sound : t.Sound leaves total) (spells : t.Spells symbols) (small : total < 2 ^ 32) (more : 1 < t.heap.length) :
    ∃ t', merge t = some t' ∧ (t'.Sound leaves total ∧ t'.Spells symbols) ∧ t'.heap.length + 1 = t.heap.length := by
  obtain ⟨a, b, na, nb, merged, joins⟩ := Machine.exists_merge sound.inside more
  exact ⟨_, merged, ⟨sound.joined joins small, spells.joined joins⟩, joins.joined_heap_length⟩

/-- TREE_BUILD's arena spells a tree at ROOT, with one leaf for each symbol that occurs. -/
theorem exists_treeBuild_isTreeAt {f : FreqTable} {total : Nat} (positive : 0 < f.distinct)
    (sum : (f.present.map fun x => x.2.toNat).sum = total) (small : total < 2 ^ 32) :
    ∃ t root T, treeBuild f = some (t, root) ∧ IsTreeAt t.nodes root T ∧ T.symbols.Perm (f.present.map Prod.fst)
      ∧ f.distinct ≤ t.nodes.length := by
  obtain ⟨t, root, built, alone, sound⟩ := exists_treeBuild positive sum small
  obtain ⟨u, ran, ⟨-, trees, spelled, leaves⟩, -⟩ :=
    mergeLoop_ends (P := fun t => t.Sound f.distinct total ∧ t.Spells (f.present.map Prod.fst))
      (fun _ ⟨sound, spells⟩ => sound.exists_merge_spells spells small)
      ⟨sum ▸ leafInit_sound positive, leafInit_spells f⟩ (Nat.le_succ _)
  obtain rfl : u = t := Option.some.inj (ran.symm.trans (treeBuild_eq_some_iff.mp built).1)
  rw [alone] at spelled
  have size := sound.size
  rw [alone, List.length_singleton] at size
  cases spelled with
  | @cons _ T _ _ atRoot none =>
    cases none
    exact ⟨u, root, T, built, atRoot, by simpa using leaves, by omega⟩

end Sys2Proof.Machine
end

section
/-! The codes of an input (42_code_generator.md R145 to R148): its code table is that of a tree with one leaf for each symbol
that occurs. -/

namespace Sys2Proof.Machine

theorem FreqTable.present_map_fst (f : FreqTable) :
    f.present.map Prod.fst = allSymbols.filter fun s => 0 < (f.count s).toNat := by
  rw [present_eq, List.map_map]
  exact List.map_id' _

theorem FreqTable.distinct_le (f : FreqTable) : f.distinct ≤ 256 := by
  rw [distinct, ← List.length_map (f := Prod.fst), present_map_fst, ← allSymbols_length]
  exact List.length_filter_le _ _

theorem mem_present_freqCount {input : ByteString} (short : input.length < 2 ^ 32) {b : Byte} :
    b ∈ (freqCount input).present.map Prod.fst ↔ b ∈ input := by
  simp [FreqTable.present_map_fst, mem_allSymbols, freqCount_count_toNat short]

/-- `T` is the tree of the input: one leaf for each symbol that occurs. -/
structure IsCodeTreeOf (input : ByteString) (T : CodeTree) : Prop where
  nodup : T.symbols.Nodup
  mem_symbols : ∀ b, b ∈ T.symbols ↔ b ∈ input
  length : T.codes.length = (freqCount input).distinct

/-- ENCODE's code table is the table of the input's tree. -/
theorem exists_codeTableOf {input : ByteString} (nonempty : input ≠ []) (short : input.length < 2 ^ 32) :
    ∃ T, codeTableOf input = some T.table ∧ IsCodeTreeOf input T := by
  obtain ⟨t, root, T, built, spelled, leaves, deep⟩ := exists_treeBuild_isTreeAt
    (freqCount_distinct_pos nonempty short) (freqCount_present_sum short) short
  have length : T.codes.length = (freqCount input).distinct := by
    simpa [CodeTree.symbols, FreqTable.distinct] using leaves.length_eq
  refine ⟨T, (codeTableOf_eq_codeGen built).trans (codeGen_eq_table spelled (length.trans_le deep)), ?_⟩
  refine { nodup := leaves.nodup_iff.mpr ?_, mem_symbols := fun b => ?_, length := length }
  · rw [FreqTable.present_map_fst]
    exact allSymbols_nodup.filter _
  · rw [leaves.mem_iff, mem_present_freqCount short]

theorem exists_tree_of_codeTableOf {input : ByteString} {c : CodeTable} (nonempty : input ≠ [])
    (short : input.length < 2 ^ 32) (table : codeTableOf input = some c) : ∃ T, c = T.table ∧ IsCodeTreeOf input T := by
  obtain ⟨T, generated, tree⟩ := exists_codeTableOf nonempty short
  exact ⟨T, Option.some.inj (table.symm.trans generated), tree⟩

/-- A symbol that occurs has a code, and the table holds it. -/
theorem IsCodeTreeOf.exists_code {input : ByteString} {T : CodeTree} (h : IsCodeTreeOf input T) {b : Byte}
    (occurs : b ∈ input) : ∃ bits, (b, bits) ∈ T.codes ∧ T.table.entry b = codeEntryOf bits :=
  CodeTree.exists_code_of_present (CodeTree.table_present_iff.mpr ((h.mem_symbols b).mpr occurs))

theorem IsCodeTreeOf.length_le {input : ByteString} {T : CodeTree} (h : IsCodeTreeOf input T) : T.codes.length ≤ 256 :=
  h.length ▸ FreqTable.distinct_le _

/-- Settles O34: the table's present entries are the tree's codes, and a path is shorter than the number of leaves. -/
theorem codeTableHasTheSymbolsThatOccur : Obligations.CodeTableHasTheSymbolsThatOccur := by
  intro input nonempty short
  obtain ⟨T, generated, tree⟩ := exists_codeTableOf nonempty short
  refine ⟨T.table, generated, ?_, fun b => ⟨?_, fun present => ?_⟩⟩
  · rw [(CodeTree.table_present_perm tree.nodup).length_eq, List.length_map, tree.length]
  · rw [CodeTree.table_present_iff, tree.mem_symbols]
  · obtain ⟨bits, code, entry⟩ := CodeTree.exists_code_of_present present
    have bound : bits.length < T.codes.length := CodeTree.bits_length_lt code
    have fits : bits.length < 2 ^ 8 := bound.trans_le tree.length_le
    rw [entry]
    exact ⟨Nat.mod_eq_of_lt fits, tree.length ▸ bound⟩

/-- Settles O35: a code that starts another belongs to the same leaf, and the empty code starts them all. -/
theorem codesArePrefixFree : Obligations.CodesArePrefixFree := by
  intro input c short _ table a b aOccurs bOccurs ne
  obtain ⟨T, rfl, tree⟩ := exists_tree_of_codeTableOf (List.ne_nil_of_mem aOccurs) short table
  obtain ⟨p, codeA, entryA⟩ := tree.exists_code aOccurs
  obtain ⟨q, codeB, entryB⟩ := tree.exists_code bOccurs
  have notStart : ¬ p <+: q := fun starts => ne (congrArg Prod.fst (CodeTree.eq_of_bits_prefix codeA codeB starts))
  rw [entryA, entryB, codeEntryOf_bits, codeEntryOf_bits]
  exact ⟨fun empty => notStart (empty ▸ List.nil_prefix), notStart⟩

/-- Settles O36: the sum over the table is the sum over the tree's codes. -/
theorem codesAreComplete : Obligations.CodesAreComplete := by
  intro input c nonempty short table
  obtain ⟨T, rfl, tree⟩ := exists_tree_of_codeTableOf nonempty short table
  rw [((CodeTree.table_present_perm tree.nodup).map _).sum_eq, List.map_map]
  exact CodeTree.sum_kraftTerm tree.length_le

end Sys2Proof.Machine
end

section
/-! Packing and its inverse (43_bit_packer.md R162, R163, R166, R167): unpacking a payload gives back the padded bits, so what
PACK stores is read off UNPACK. -/

namespace Sys2Proof.Machine

/-- Settles O37: the remainder of the bit length fixes the pad count. -/
theorem padCountCompletesTheByte : Obligations.PadCountCompletesTheByte := by
  intro b
  unfold padCountOf
  omega

@[simp] theorem unpack_cons (b : Byte) (payload : ByteString) : unpack (b :: payload) = unpackByte b ++ unpack payload :=
  rfl

@[simp] theorem unpackByte_length (b : Byte) : (unpackByte b).length = 8 := rfl

@[simp] theorem unpack_length (payload : ByteString) : (unpack payload).length = 8 * payload.length := by
  simp [unpack, Nat.mul_comm]

theorem unpackByte_getElem? (b : Byte) {t : Nat} (inside : t < 8) : (unpackByte b)[t]? = some (b.getLsbD (7 - t)) := by
  interval_cases t <;> rfl

theorem unpack_getElem? (payload : ByteString) (j : Nat) {t : Nat} (inside : t < 8) :
    (unpack payload)[8 * j + t]? = payload[j]?.map fun b => b.getLsbD (7 - t) := by
  induction payload generalizing j with
  | nil => rfl
  | cons b payload ih =>
    cases j with
    | zero =>
      rw [unpack_cons, Nat.mul_zero, Nat.zero_add, List.getElem?_append_left inside]
      exact unpackByte_getElem? b inside
    | succ j =>
      have later : 8 * (j + 1) + t - 8 = 8 * j + t := by omega
      rw [unpack_cons, List.getElem?_append_right (by simp; omega), unpackByte_length, later, ih, List.getElem?_cons_succ]

theorem unpackByte_packByte (b0 b1 b2 b3 b4 b5 b6 b7 : Bool) :
    unpackByte (packByte b0 b1 b2 b3 b4 b5 b6 b7) = [b0, b1, b2, b3, b4, b5, b6, b7] := by
  decide +revert

/-- On whole bytes UNPACK undoes PACK. -/
theorem unpack_packBits : ∀ {bits : BitString}, bits.length % 8 = 0 → unpack (packBits bits) = bits
  | [], _ => rfl
  | b0 :: b1 :: b2 :: b3 :: b4 :: b5 :: b6 :: b7 :: rest, whole => by
    have whole : rest.length % 8 = 0 := (Nat.add_mod_right rest.length 8).symm.trans whole
    rw [packBits, unpack_cons, unpackByte_packByte, unpack_packBits whole]
    rfl

/-- UNPACK of PACK gives the bits and their padding. -/
theorem unpack_pack (bits : BitString) :
    unpack (pack bits (padCountOf bits.length)) = bits ++ List.replicate (padCountOf bits.length) false := by
  obtain ⟨-, whole, -⟩ := padCountCompletesTheByte bits.length
  exact unpack_packBits (by simpa using whole)

/-- Settles O38: the padded string is UNPACK of the payload, whose bit 8j+t is bit 7-t of byte j. -/
theorem packIsMostSignificantFirst : Obligations.PackIsMostSignificantFirst := by
  intro bits
  have length : bits.length + padCountOf bits.length = 8 * (pack bits (padCountOf bits.length)).length := by
    simpa using (congrArg List.length (unpack_pack bits)).symm
  have bytes : (pack bits (padCountOf bits.length)).length = (bits.length + padCountOf bits.length) / 8 := by omega
  refine ⟨bytes, fun j t bit byte => ⟨_, List.getElem?_eq_getElem (bytes ▸ byte), ?_⟩⟩
  rw [← unpack_pack, unpack_getElem? _ j bit, List.getElem?_eq_getElem (bytes ▸ byte), Option.map_some]

theorem trim_append_replicate (bits : BitString) (pc : Nat) : trim (bits ++ List.replicate pc false) pc = bits := by
  unfold trim
  split
  · simp
  · next zero =>
    obtain rfl : pc = 0 := by omega
    simp

/-- Settles O39: UNPACK gives the padded string, and TRIM drops the padding. -/
theorem trimUnpackInvertsPack : Obligations.TrimUnpackInvertsPack := by
  intro bits
  rw [unpack_pack, trim_append_replicate]

end Sys2Proof.Machine
end

section
/-! How the decode loop ends (43_bit_packer.md R168, R170, R172): each round that goes on writes a symbol or takes a bit, and
the round that stops says why. -/

namespace Sys2Proof.Machine

/-- The loop ends with the result of a round that stops on the registers it ends with. -/
theorem greedyLoop_last {m : ReverseMap} {bits : BitString} {declLen size rounds : Nat} {r d : DecodeRegs} {result : Result}
    (h : greedyLoop m bits declLen size rounds r = some (result, d)) :
    greedyRound m bits declLen size d = .stop result d := by
  induction rounds generalizing r with
  | zero => cases h
  | succ rounds ih =>
    unfold greedyLoop at h
    split at h
    · next stopped =>
      cases h
      exact greedyRound_stop stopped ▸ stopped
    · exact ih h

/-- CNT and POS are within their bounds. -/
structure DecodeRegs.Within (bits : BitString) (declLen size : Nat) (r : DecodeRegs) : Prop where
  cntLeDeclLen : r.cnt ≤ declLen
  cntLeSize : r.cnt ≤ size
  posLe : r.pos ≤ bits.length

/-- The symbols OBUF has room for and the bits not yet taken. -/
def DecodeRegs.remaining (bits : BitString) (size : Nat) (r : DecodeRegs) : Nat := (size - r.cnt) + (bits.length - r.pos)

/-- A round that goes on uses up a symbol's room or a bit, within the bounds. -/
theorem DecodeRegs.Within.again {m : ReverseMap} {bits : BitString} {declLen size : Nat} {r r' : DecodeRegs}
    (within : r.Within bits declLen size) (h : greedyRound m bits declLen size r = .again r') :
    r'.Within bits declLen size ∧ r'.remaining bits size < r.remaining bits size := by
  obtain ⟨declLe, sizeLe, posLe⟩ := within
  obtain ⟨-, e⟩ | ⟨-, -, -, e⟩ | ⟨more, notFull, _, -, e⟩ | ⟨-, -, -, -, e⟩ | ⟨-, -, -, -, e⟩ | ⟨-, -, _, taken, e⟩ :=
      greedyRound_cases m bits declLen size r <;>
    rw [e] at h <;> cases h
  · refine ⟨⟨?_, ?_, posLe⟩, ?_⟩ <;> simp only [remaining] <;> omega
  · obtain ⟨inside, -⟩ := List.getElem?_eq_some_iff.mp taken
    refine ⟨⟨declLe, sizeLe, inside⟩, ?_⟩
    simp only [remaining]
    omega

theorem exists_greedyLoop {m : ReverseMap} {bits : BitString} {declLen size rounds : Nat} {r : DecodeRegs}
    (within : r.Within bits declLen size) (enough : r.remaining bits size < rounds) :
    ∃ result d, greedyLoop m bits declLen size rounds r = some (result, d) := by
  induction rounds generalizing r with
  | zero => omega
  | succ rounds ih =>
    unfold greedyLoop
    split
    · exact ⟨_, _, rfl⟩
    · next again =>
      obtain ⟨within, less⟩ := within.again again
      exact ih within (by omega)

/-- Settles O40: the loop has rounds enough, and the bounds with the last round's tests give the cause of each result. -/
theorem greedyDecodeEnds : Obligations.GreedyDecodeEnds := by
  intro m bits declLen size obuf
  have start : DecodeRegs.Within bits declLen size { acc := [], cnt := 0, pos := 0, obuf := obuf } :=
    ⟨Nat.zero_le _, Nat.zero_le _, Nat.zero_le _⟩
  obtain ⟨result, d, ran⟩ := exists_greedyLoop (m := m) start (Nat.lt_succ_self _)
  have last := greedyLoop_last ran
  obtain ⟨declLe, sizeLe, posLe⟩ := greedyLoop_keeps (fun _ _ within again => (within.again again).1) start ran
  refine ⟨result, d, ran, declLe, sizeLe, posLe, ?_⟩
  obtain ⟨done, e⟩ | ⟨more, found, full, e⟩ | ⟨-, -, _, -, e⟩ | ⟨more, unmatched, spent, pending, e⟩
      | ⟨more, unmatched, spent, empty, e⟩ | ⟨-, -, _, -, e⟩ := greedyRound_cases m bits declLen size d <;>
    rw [e] at last <;> cases last
  · exact .inl ⟨rfl, done⟩
  · exact .inr (.inr (.inr ⟨rfl, lt_of_le_of_ne declLe more, full, found⟩))
  · exact .inr (.inr (.inl ⟨rfl, lt_of_le_of_ne declLe more, posLe.antisymm spent, pending, unmatched⟩))
  · exact .inr (.inl ⟨rfl, lt_of_le_of_ne declLe more, posLe.antisymm spent, empty, empty ▸ unmatched⟩)

end Sys2Proof.Machine
end

section
/-! What the decode loop has written (43_bit_packer.md R168): one symbol of the reverse mapping at each OBUF index below CNT. -/

namespace Sys2Proof.Machine

theorem ReverseMap.mem_of_lookup {m : ReverseMap} {code : ByteString} {s : Byte} (h : m.lookup code = some s) :
    (code, s) ∈ m := by
  induction m with
  | nil => cases h
  | cons entry rest ih =>
    unfold ReverseMap.lookup at h
    split at h
    · next same =>
      cases h
      exact same ▸ List.mem_cons_self
    · exact List.mem_cons_of_mem _ (ih h)

/-- OBUF holds symbols of `m` below CNT and is `obuf` from there on. -/
structure DecodeRegs.Wrote (m : ReverseMap) (obuf : Memory) (r : DecodeRegs) : Prop where
  obufWf : r.obuf.wf
  symbols : ∀ j, j < r.cnt → ∃ code s, (code, s) ∈ m ∧ r.obuf.get? j = some s
  others : ∀ j, r.cnt ≤ j → r.obuf.get? j = obuf.get? j

theorem DecodeRegs.Wrote.again {m : ReverseMap} {bits : BitString} {declLen size : Nat} {obuf : Memory} {r r' : DecodeRegs}
    (wrote : r.Wrote m obuf) (h : greedyRound m bits declLen size r = .again r') : r'.Wrote m obuf := by
  obtain ⟨wf, symbols, others⟩ := wrote
  obtain ⟨-, e⟩ | ⟨-, -, -, e⟩ | ⟨-, -, sym, found, e⟩ | ⟨-, -, -, -, e⟩ | ⟨-, -, -, -, e⟩ | ⟨-, -, _, -, e⟩ :=
      greedyRound_cases m bits declLen size r <;>
    rw [e] at h <;> cases h
  · refine ⟨Memory.wf_write wf _ _, fun j below => ?_, fun j above => ?_⟩
    · obtain rfl | ne := eq_or_ne j r.cnt
      · exact ⟨_, sym, ReverseMap.mem_of_lookup found, Memory.get?_write_same _ _ _⟩
      · rw [Memory.get?_write_other wf sym ne]
        exact symbols j (lt_of_le_of_ne (Nat.le_of_lt_succ below) ne)
    · rw [Memory.get?_write_other wf sym (Nat.ne_of_gt above)]
      exact others j (Nat.le_of_succ_le above)
  · exact ⟨wf, symbols, others⟩

/-- Settles O41: every round that goes on keeps what the loop has written. -/
theorem greedyDecodeWritesBelowCnt : Obligations.GreedyDecodeWritesBelowCnt := by
  intro m bits declLen size obuf result d wf ran
  have start : DecodeRegs.Wrote m obuf { acc := [], cnt := 0, pos := 0, obuf := obuf } := ⟨wf, nofun, fun _ _ => rfl⟩
  obtain ⟨wf, symbols, others⟩ := greedyLoop_keeps (fun _ _ => DecodeRegs.Wrote.again) start ran
  exact ⟨wf, symbols, others⟩

end Sys2Proof.Machine
end

section
/-! The XOR transform and the region's header (44_container.md R200, R201, R203, R211, R212). -/

namespace Sys2Proof.Machine

@[simp] theorem xorRegion_length (x : ByteString) (k : Byte) : (xorRegion x k).length = x.length := List.length_map ..

/-- Two transforms are one under the XOR of their key bytes. -/
theorem xorRegion_xorRegion (x : ByteString) (k k' : Byte) : xorRegion (xorRegion x k) k' = xorRegion x (k ^^^ k') := by
  simp [xorRegion, BitVec.xor_assoc]

theorem xorRegion_zero (x : ByteString) : xorRegion x 0 = x := by simp [xorRegion]

/-- Settles O42: two transforms under one key byte are the transform under 0. -/
theorem xorRegionIsItsOwnInverse : Obligations.XorRegionIsItsOwnInverse := fun x k =>
  ⟨xorRegion_length x k, fun _ => List.getElem?_map,
    by rw [xorRegion_xorRegion, BitVec.xor_self]; exact xorRegion_zero x⟩

/-- DEOBFUSCATE at the table's length leaves the region under the XOR of the two key bytes. -/
theorem deobfuscate_append_xorRegion (table x : ByteString) (k k' : Byte) :
    deobfuscate (table ++ xorRegion x k) table.length k' = xorRegion x (k ^^^ k') := by
  rw [deobfuscate, List.drop_left, xorRegion_xorRegion]

theorem deobfuscate_same_key (table x : ByteString) (k : Byte) :
    deobfuscate (table ++ xorRegion x k) table.length k = x := by
  rw [deobfuscate_append_xorRegion, BitVec.xor_self]
  exact xorRegion_zero x

/-- The region ENCODE lays out (R203), before the transform. -/
def RegionHeader.region (h : RegionHeader) : ByteString := h.padCount :: (be32 h.declLen ++ h.payload)

theorem serializeRegion_eq (h : RegionHeader) (k : Byte) :
    serializeRegion h.padCount h.declLen h.payload k = xorRegion h.region k := rfl

theorem readHeader_region (h : RegionHeader) : readHeader h.region = some h := by
  have number : BitVec.ofNat 32 (fromBE (be32 h.declLen)) = h.declLen := by
    rw [fromBE_be32, BitVec.ofNat_toNat, BitVec.setWidth_eq]
  exact congrArg (fun l => some (RegionHeader.mk h.padCount l h.payload)) number

/-- Settles O43: DEOBFUSCATE under ENCODE's key byte gives the region as ENCODE laid it out. -/
theorem regionHeaderRoundTrip : Obligations.RegionHeaderRoundTrip := by
  intro table pc k len payload
  rw [serializeRegion_eq ⟨pc, len, payload⟩, deobfuscate_same_key, readHeader_region]

/-- The last byte of a big-endian number is its low byte. -/
theorem keyByte_ofNat_fromBE (b0 b1 b2 b3 : Byte) : keyByte (BitVec.ofNat 32 (fromBE [b0, b1, b2, b3])) = b3 := by
  apply BitVec.eq_of_toNat_eq
  have := b3.isLt
  simp [keyByte, fromBE]
  omega

/-- Under a key byte other than 0 a header still reads, and its declared length is another. -/
theorem exists_readHeader_xorRegion_ne (h : RegionHeader) {k : Byte} (other : k ≠ 0) :
    ∃ h', readHeader (xorRegion h.region k) = some h' ∧ h'.declLen ≠ h.declLen := by
  refine ⟨_, rfl, fun same => other ?_⟩
  have low : keyByte h.declLen ^^^ k = keyByte h.declLen := (keyByte_ofNat_fromBE ..).symm.trans (congrArg keyByte same)
  exact (BitVec.xor_right_inj (keyByte h.declLen)).mp (low.trans BitVec.xor_zero.symm)

end Sys2Proof.Machine
end

section
/-! BUILD_RMAP (44_container.md R213): what a look-up answers after each stored entry. -/

namespace Sys2Proof.Machine

theorem ReverseMap.lookup_cons (k : ByteString) (s : Byte) (m : ReverseMap) (code : ByteString) :
    ReverseMap.lookup ((k, s) :: m) code = if k = code then some s else m.lookup code := rfl

theorem ReverseMap.lookup_append_singleton (m : ReverseMap) (key : ByteString) (sym : Byte) (code : ByteString) :
    ReverseMap.lookup (m ++ [(key, sym)]) code = (m.lookup code).or (if key = code then some sym else none) := by
  induction m with
  | nil => rfl
  | cons x m ih =>
    rw [List.cons_append, lookup_cons, lookup_cons, ih]
    split <;> rfl

theorem ReverseMap.lookup_filter_ne (m : ReverseMap) (key code : ByteString) :
    ReverseMap.lookup (m.filter fun x => x.1 ≠ key) code = if key = code then none else m.lookup code := by
  induction m with
  | nil => simp [lookup]
  | cons x m ih =>
    rw [lookup_cons]
    by_cases dropped : x.1 = key
    · rw [List.filter_cons_of_neg (by simpa using dropped), ih, dropped]
      split <;> rfl
    · rw [List.filter_cons_of_pos (by simpa using dropped), lookup_cons, ih]
      split
      · next same => rw [if_neg (same ▸ Ne.symm dropped)]
      · rfl

/-- The stored symbol at its own key, the map as it was at every other. -/
theorem ReverseMap.lookup_insert (m : ReverseMap) (key : ByteString) (sym : Byte) (code : ByteString) :
    (m.insert key sym).lookup code = if key = code then some sym else m.lookup code := by
  rw [insert, lookup_append_singleton, lookup_filter_ne]
  split
  · rfl
  · exact Option.or_none

theorem buildRmap_append_singleton (entries : List TableEntry) (x : TableEntry) :
    buildRmap (entries ++ [x]) = (buildRmap entries).insert x.1 x.2 := by
  simp [buildRmap]

/-- Settles O47, by induction on the entries from the last one back. -/
theorem laterEntryWins : Obligations.LaterEntryWins := by
  intro entries code
  induction entries using List.reverseRecOn with
  | nil => rfl
  | append_singleton entries x ih =>
    rw [buildRmap_append_singleton, ReverseMap.lookup_insert, ih, List.reverse_concat, List.find?_cons]
    by_cases same : x.1 = code
    · simp [same]
    · simp [same, beq_eq_false_iff_ne.mpr same]

end Sys2Proof.Machine
end

section
/-! The structural parse read as the inverse of the serializer (44_container.md R202, R206 to R209): a parse succeeds exactly on
the bytes of some entries followed by a region of at least five bytes, and the capacities decide only what is kept of them. -/

namespace Sys2Proof.Machine

theorem be16_ofNat_fromBE (hi lo : Byte) : be16 (BitVec.ofNat 16 (fromBE [hi, lo])) = [hi, lo] := by
  have h := hi.isLt
  have l := lo.isLt
  simp only [be16, fromBE, List.foldl, List.cons.injEq, and_true]
  constructor <;> apply BitVec.eq_of_toNat_eq <;>
    simp [Nat.shiftRight_eq_div_pow] <;> omega

theorem be32_ofNat_fromBE (b0 b1 b2 b3 : Byte) :
    be32 (BitVec.ofNat 32 (fromBE [b0, b1, b2, b3])) = [b0, b1, b2, b3] := by
  have h0 := b0.isLt
  have h1 := b1.isLt
  have h2 := b2.isLt
  have h3 := b3.isLt
  simp only [be32, fromBE, List.foldl, List.cons.injEq, and_true]
  refine ⟨?_, ?_, ?_, ?_⟩ <;> apply BitVec.eq_of_toNat_eq <;>
    simp [Nat.shiftRight_eq_div_pow] <;> omega

theorem fromBE_lt (bs : ByteString) : fromBE bs < 256 ^ bs.length := by
  induction bs using List.reverseRecOn with
  | nil => decide
  | append_singleton bs b ih =>
    have := b.isLt
    have step : fromBE (bs ++ [b]) = fromBE bs * 256 + b.toNat := by simp [fromBE]
    rw [step, List.length_append, List.length_singleton, Nat.pow_succ]
    omega

/-- The bytes of one table entry (R207): symbol, BE16 code length, code. -/
def entryBytes (x : TableEntry) : ByteString := x.2 :: (be16 (BitVec.ofNat 16 x.1.length) ++ x.1)

@[simp] theorem entryBytes_length (x : TableEntry) : (entryBytes x).length = 3 + x.1.length := by
  simp [entryBytes]
  omega

/-- What a round of PARSE_ENTRIES does with the entry it has read (R207). -/
def ParseState.store (tableCap codeCap e : Nat) (st : ParseState) (x : TableEntry) : ParseState :=
  if e ≥ tableCap ∨ x.1.length > codeCap then { st with p := st.p + (entryBytes x).length, overCap := true }
  else { st with p := st.p + (entryBytes x).length, entries := st.entries ++ [x] }

@[simp] theorem ParseState.store_p (tableCap codeCap e : Nat) (st : ParseState) (x : TableEntry) :
    (st.store tableCap codeCap e x).p = st.p + (entryBytes x).length := by
  unfold store
  split <;> rfl

/-- PARSE_ENTRIES on entries already read, the first of them numbered `e`. -/
def ParseState.storeAll (tableCap codeCap : Nat) : (e : Nat) → ParseState → List TableEntry → ParseState
  | _, st, [] => st
  | e, st, x :: xs => storeAll tableCap codeCap (e + 1) (st.store tableCap codeCap e x) xs

/-- Any piece of the bytes at the cursor is a slice. -/
theorem slice_of_drop_eq_append {input bs rest : ByteString} {p : Nat} (inside : p ≤ input.length)
    (h : input.drop p = bs ++ rest) : slice input p bs.length = some bs := by
  have length := congrArg List.length h
  rw [List.length_drop, List.length_append] at length
  exact slice_eq_some.mpr ⟨by omega, by rw [h, List.take_left]⟩

/-- A slice is what the bytes at the cursor begin with. -/
theorem drop_eq_append_of_slice {input bs : ByteString} {p n : Nat} (h : slice input p n = some bs) :
    input.drop p = bs ++ input.drop (p + n) := by
  obtain ⟨-, rfl⟩ := slice_eq_some.mp h
  rw [← List.drop_drop, List.take_append_drop]

theorem drop_add_of_drop_eq_append {input bs rest : ByteString} {p n : Nat} (h : input.drop p = bs ++ rest)
    (length : bs.length = n) : input.drop (p + n) = rest := by
  rw [← List.drop_drop, h, ← length, List.drop_left]

/-- One round reads exactly the entries whose bytes stand at the cursor. -/
theorem parseEntry_eq_some_iff {tableCap codeCap e : Nat} {input : ByteString} {st st' : ParseState} :
    parseEntry tableCap codeCap input e st = some st'
      ↔ ∃ x rest, x.1.length < 2 ^ 16 ∧ input.drop st.p = entryBytes x ++ rest
          ∧ st' = st.store tableCap codeCap e x := by
  constructor
  · intro h
    unfold parseEntry at h
    split at h
    · next sym hi lo head =>
      dsimp only at h
      split at h
      · cases h
      · next code body =>
        have length := slice_length body
        refine ⟨(code, sym), input.drop (st.p + 3 + fromBE [hi, lo]), ?_, ?_, ?_⟩
        · simpa [length] using fromBE_lt [hi, lo]
        · rw [drop_eq_append_of_slice head, drop_eq_append_of_slice body, entryBytes, length, be16_ofNat_fromBE]
          rfl
        · rw [ParseState.store, entryBytes_length, ← Nat.add_assoc, length]
          exact Option.some.inj (h.symm.trans (apply_ite some ..).symm)
    · cases h
  · rintro ⟨⟨code, sym⟩, rest, short, bytes, rfl⟩
    obtain ⟨hi, lo, header⟩ : ∃ hi lo, be16 (BitVec.ofNat 16 code.length) = [hi, lo] := ⟨_, _, rfl⟩
    have number : fromBE [hi, lo] = code.length := by rw [← header, fromBE_be16, BitVec.toNat_ofNat, Nat.mod_eq_of_lt short]
    have split : input.drop st.p = [sym, hi, lo] ++ (code ++ rest) := by rw [bytes, entryBytes, header]; rfl
    have length := congrArg List.length split
    simp only [List.length_drop, List.length_append, List.length_cons, List.length_nil] at length
    have head : slice input st.p 3 = some [sym, hi, lo] := slice_of_drop_eq_append (by omega) split
    have body : slice input (st.p + 3) code.length = some code :=
      slice_of_drop_eq_append (by omega) (drop_add_of_drop_eq_append split rfl)
    simp only [parseEntry, head, number, body, ParseState.store, entryBytes_length, ← Nat.add_assoc, apply_ite some]

/-- PARSE_ENTRIES reads exactly the entries whose bytes stand at the cursor, one after the other. -/
theorem parseEntries_eq_some_iff {tableCap codeCap left e : Nat} {input : ByteString} {st st' : ParseState} :
    parseEntries tableCap codeCap input left e st = some st'
      ↔ ∃ xs rest, xs.length = left ∧ (∀ x ∈ xs, x.1.length < 2 ^ 16) ∧ input.drop st.p = xs.flatMap entryBytes ++ rest
          ∧ st' = st.storeAll tableCap codeCap e xs := by
  induction left generalizing e st with
  | zero =>
    constructor
    · rintro h
      cases h
      exact ⟨[], _, rfl, nofun, rfl, rfl⟩
    · rintro ⟨xs, rest, length, -, -, rfl⟩
      rw [List.eq_nil_of_length_eq_zero length]
      rfl
  | succ left ih =>
    constructor
    · intro h
      unfold parseEntries at h
      split at h
      · cases h
      · next st1 first =>
        obtain ⟨x, rest, short, bytes, rfl⟩ := parseEntry_eq_some_iff.mp first
        obtain ⟨xs, rest', length, shorts, bytes', rfl⟩ := ih.mp h
        rw [ParseState.store_p, drop_add_of_drop_eq_append bytes rfl] at bytes'
        refine ⟨x :: xs, rest', congrArg (· + 1) length, List.forall_mem_cons.mpr ⟨short, shorts⟩, ?_, rfl⟩
        rw [bytes, bytes', List.flatMap_cons, List.append_assoc]
    · rintro ⟨_ | ⟨x, xs⟩, rest, length, shorts, bytes, rfl⟩
      · cases length
      · obtain ⟨short, shorts⟩ := List.forall_mem_cons.mp shorts
        rw [List.flatMap_cons, List.append_assoc] at bytes
        have first := parseEntry_eq_some_iff (tableCap := tableCap) (codeCap := codeCap) (e := e).mpr ⟨x, _, short, bytes, rfl⟩
        simp only [parseEntries, first]
        refine ih.mpr ⟨xs, rest, Nat.succ.inj length, shorts, ?_, rfl⟩
        rw [ParseState.store_p, drop_add_of_drop_eq_append bytes rfl]

end Sys2Proof.Machine
end

section
/-! The whole table (44_container.md R202, R206 to R210): the parse of a table's bytes and a region, what the capacities keep. -/

namespace Sys2Proof.Machine

/-- A container table (R202): BE32 entry count, then the entries. -/
def tableBytes (xs : List TableEntry) : ByteString := be32 (BitVec.ofNat 32 xs.length) ++ xs.flatMap entryBytes

/-- Entries that the count and length fields can express, their table followed by a region with room for its header. -/
structure IsTableWithRegion (input : ByteString) (xs : List TableEntry) (region : ByteString) : Prop where
  bytes : input = tableBytes xs ++ region
  header : 5 ≤ region.length
  count : xs.length < 2 ^ 32
  codes : ∀ x ∈ xs, x.1.length < 2 ^ 16

/-- The parse of those bytes. -/
def parsedTableOf (tableCap codeCap : Nat) (xs : List TableEntry) (region : ByteString) : ParsedTable :=
  let st := ParseState.storeAll tableCap codeCap 0 { p := 4, overCap := false, entries := [] } xs
  { entryCount := BitVec.ofNat 32 xs.length, overCap := st.overCap, entries := st.entries,
    rstart := (tableBytes xs).length, payloadLen := region.length - 5 }

theorem ParseState.storeAll_p (tableCap codeCap e : Nat) (st : ParseState) (xs : List TableEntry) :
    (st.storeAll tableCap codeCap e xs).p = st.p + (xs.flatMap entryBytes).length := by
  induction xs generalizing e st with
  | nil => rfl
  | cons x xs ih => rw [storeAll, ih, store_p, List.flatMap_cons, List.length_append, Nat.add_assoc]

/-- Numbers from `e` on are below the table capacity and no code is longer than its capacity. -/
def WithinCaps (tableCap codeCap e : Nat) (xs : List TableEntry) : Prop :=
  e + xs.length ≤ max e tableCap ∧ ∀ x ∈ xs, x.1.length ≤ codeCap

theorem withinCaps_cons {tableCap codeCap e : Nat} {x : TableEntry} {xs : List TableEntry} :
    WithinCaps tableCap codeCap e (x :: xs)
      ↔ ¬ (e ≥ tableCap ∨ x.1.length > codeCap) ∧ WithinCaps tableCap codeCap (e + 1) xs := by
  simp only [WithinCaps, List.length_cons, List.forall_mem_cons]
  constructor
  · rintro ⟨count, code, codes⟩
    exact ⟨by omega, by omega, codes⟩
  · rintro ⟨kept, count, codes⟩
    exact ⟨by omega, by omega, codes⟩

theorem not_withinCaps_zero {tableCap codeCap : Nat} {xs : List TableEntry} :
    ¬ WithinCaps tableCap codeCap 0 xs ↔ xs.length > tableCap ∨ ∃ x ∈ xs, x.1.length > codeCap := by
  simp [WithinCaps, imp_iff_not_or]

/-- Within the capacities every entry is kept (R207). -/
theorem ParseState.storeAll_of_withinCaps {tableCap codeCap e : Nat} {st : ParseState} {xs : List TableEntry}
    (within : WithinCaps tableCap codeCap e xs) :
    (st.storeAll tableCap codeCap e xs).overCap = st.overCap
      ∧ (st.storeAll tableCap codeCap e xs).entries = st.entries ++ xs := by
  induction xs generalizing e st with
  | nil => exact ⟨rfl, (List.append_nil _).symm⟩
  | cons x xs ih =>
    obtain ⟨kept, within⟩ := withinCaps_cons.mp within
    obtain ⟨flag, entries⟩ := ih (st := st.store tableCap codeCap e x) within
    rw [storeAll, flag, entries, store, if_neg kept]
    exact ⟨rfl, by simp⟩

/-- The flag is set exactly by an entry beyond the capacities (R207). -/
theorem ParseState.storeAll_overCap_eq_false {tableCap codeCap e : Nat} {st : ParseState} {xs : List TableEntry} :
    (st.storeAll tableCap codeCap e xs).overCap = false ↔ st.overCap = false ∧ WithinCaps tableCap codeCap e xs := by
  induction xs generalizing e st with
  | nil => simp [storeAll, WithinCaps]
  | cons x xs ih =>
    rw [storeAll, ih, withinCaps_cons, store]
    split
    · next dropped => simp [dropped]
    · next kept => simp [kept]

/-- The parse succeeds exactly on a table followed by a region, and answers what stands there (R206 to R209). -/
theorem parseTable_eq_some_iff {tableCap codeCap : Nat} {input : ByteString} {t : ParsedTable} :
    parseTable tableCap codeCap input = some t
      ↔ ∃ xs region, IsTableWithRegion input xs region ∧ t = parsedTableOf tableCap codeCap xs region := by
  constructor
  · intro h
    unfold parseTable at h
    split at h
    · cases h
    · next c count =>
      split at h
      · cases h
      · next st entries =>
        split at h
        · cases h
        · next room =>
          cases h
          obtain ⟨xs, region, length, codes, bytes, rfl⟩ := parseEntries_eq_some_iff.mp entries
          obtain ⟨b0, b1, b2, b3, rfl⟩ := List.length_eq_four.mp (slice_length count)
          have head := drop_eq_append_of_slice count
          rw [List.drop_zero, Nat.zero_add, bytes, ← be32_ofNat_fromBE, ← length, ← List.append_assoc] at head
          rw [ParseState.storeAll_p] at room
          have whole : input.length = 4 + (xs.flatMap entryBytes).length + region.length := by
            rw [head, List.length_append, List.length_append, be32_length]
          dsimp only at room
          refine ⟨xs, region, ⟨head, by omega, ?_, codes⟩, ?_⟩
          · simpa [length] using fromBE_lt [b0, b1, b2, b3]
          simp only [parsedTableOf, tableBytes, ParseState.storeAll_p, List.length_append, be32_length, length, whole]
          congr 1
          omega
  · rintro ⟨xs, region, ⟨rfl, header, count, codes⟩, rfl⟩
    have first : slice (tableBytes xs ++ region) 0 4 = some (be32 (BitVec.ofNat 32 xs.length)) :=
      slice_of_drop_eq_append (Nat.zero_le _) (List.append_assoc ..)
    have number : fromBE (be32 (BitVec.ofNat 32 xs.length)) = xs.length := by
      rw [fromBE_be32, BitVec.toNat_ofNat, Nat.mod_eq_of_lt count]
    have entries := parseEntries_eq_some_iff (tableCap := tableCap) (codeCap := codeCap) (e := 0)
      (st := { p := 4, overCap := false, entries := [] }) (input := tableBytes xs ++ region)
      |>.mpr ⟨xs, region, rfl, codes, by rw [tableBytes, List.append_assoc]; rfl, rfl⟩
    have size : (tableBytes xs).length = 4 + (xs.flatMap entryBytes).length := by simp [tableBytes]
    simp only [parseTable, first, number, entries, ParseState.storeAll_p, List.length_append, size]
    rw [if_neg (by omega), parsedTableOf, size]
    congr 2
    omega

theorem WithinCaps.parsedTableOf_eq {tableCap codeCap : Nat} {xs : List TableEntry} (within : WithinCaps tableCap codeCap 0 xs)
    (region : ByteString) :
    parsedTableOf tableCap codeCap xs region
      = { entryCount := BitVec.ofNat 32 xs.length, overCap := false, entries := xs, rstart := (tableBytes xs).length,
          payloadLen := region.length - 5 } := by
  obtain ⟨flag, entries⟩ := ParseState.storeAll_of_withinCaps (st := { p := 4, overCap := false, entries := [] }) within
  rw [parsedTableOf, flag, entries]
  rfl

/-- The parse of a table within the capacities followed by a region. -/
theorem parseTable_tableBytes {tableCap codeCap : Nat} {xs : List TableEntry} {region : ByteString}
    (within : WithinCaps tableCap codeCap 0 xs) (count : xs.length < 2 ^ 32) (codes : ∀ x ∈ xs, x.1.length < 2 ^ 16)
    (header : 5 ≤ region.length) :
    parseTable tableCap codeCap (tableBytes xs ++ region)
      = some { entryCount := BitVec.ofNat 32 xs.length, overCap := false, entries := xs,
               rstart := (tableBytes xs).length, payloadLen := region.length - 5 } :=
  parseTable_eq_some_iff.mpr ⟨xs, region, ⟨rfl, header, count, codes⟩, (within.parsedTableOf_eq region).symm⟩

/-- The entries of a code table as DECODE stores them (R202, R207). -/
def CodeTable.entries (c : CodeTable) : List TableEntry := c.present.map fun x => (ascii x.2.bits, x.1)

@[simp] theorem ascii_length (bits : BitString) : (ascii bits).length = bits.length := List.length_map ..

/-- SERIALIZE_TABLE writes the table of those entries, when the length fields are right. -/
theorem serializeTable_eq_tableBytes {c : CodeTable} (lengths : ∀ x ∈ c.present, x.2.len.toNat = x.2.bits.length) :
    serializeTable c c.present.length = tableBytes c.entries := by
  have entry : ∀ x ∈ c.present, serializeEntry x.1 x.2 = entryBytes (ascii x.2.bits, x.1) := fun x mem => by
    rw [serializeEntry, entryBytes, ascii_length, ← lengths x mem, BitVec.ofNat_toNat]
  rw [serializeTable, tableBytes, CodeTable.entries, List.length_map, List.flatMap_map, List.flatMap_congr entry]

theorem CodeTable.present_length_le (c : CodeTable) : c.present.length ≤ 256 := by
  rw [present_eq, List.length_map, ← allSymbols_length]
  exact List.length_filter_le _ _

/-- Settles O44: the serialized table is the table of its entries, and the legal capacities exceed every byte count. -/
theorem parseInvertsSerialize : Obligations.ParseInvertsSerialize := by
  intro p c region legal lengths header
  simp only [Params.legal, Bool.and_eq_true, decide_eq_true_eq] at legal
  obtain ⟨⟨-, tableCap⟩, codeCap⟩ := legal
  have count : c.entries.length = c.present.length := List.length_map ..
  have few := c.present_length_le
  have code : ∀ x ∈ c.entries, x.1.length < 256 := by
    intro x mem
    obtain ⟨y, present, rfl⟩ := List.mem_map.mp mem
    rw [ascii_length, ← lengths y present]
    exact y.2.len.isLt
  rw [serializeTable_eq_tableBytes lengths, ← count]
  refine parseTable_tableBytes ⟨by omega, fun x mem => ?_⟩ (by omega) (fun x mem => ?_) header
  · have := code x mem
    omega
  · have := code x mem
    omega

/-- Settles O45: bytes appended only lengthen the region. -/
theorem parseReadsOnlyBytesItHas : Obligations.ParseReadsOnlyBytesItHas := by
  intro tableCap codeCap input more
  refine ⟨fun short => Option.eq_none_iff_forall_ne_some.mpr fun t parsed => ?_, fun t parsed => ?_⟩
  · obtain ⟨xs, region, ⟨rfl, header, -, -⟩, -⟩ := parseTable_eq_some_iff.mp parsed
    simp only [tableBytes, List.length_append, be32_length] at short
    omega
  · obtain ⟨xs, region, ⟨rfl, header, count, codes⟩, rfl⟩ := parseTable_eq_some_iff.mp parsed
    constructor
    · simp only [parsedTableOf, List.length_append]
      omega
    · refine parseTable_eq_some_iff.mpr ⟨xs, region ++ more, ⟨List.append_assoc .., ?_, count, codes⟩, ?_⟩
      · rw [List.length_append]
        omega
      · simp only [parsedTableOf, List.length_append]
        congr 1
        omega

/-- Whether the bytes parse does not depend on the capacities. -/
theorem exists_parseTable_iff {tableCap codeCap : Nat} {input : ByteString} :
    (∃ t, parseTable tableCap codeCap input = some t) ↔ ∃ xs region, IsTableWithRegion input xs region := by
  simp only [parseTable_eq_some_iff]
  constructor
  · rintro ⟨-, xs, region, split, -⟩
    exact ⟨xs, region, split⟩
  · rintro ⟨xs, region, split⟩
    exact ⟨_, xs, region, split, rfl⟩

/-- Settles O46: both parses read the same entries, all of them within the larger capacities. -/
theorem capacityFlagIsExact : Obligations.CapacityFlagIsExact := by
  intro tableCap codeCap input
  refine ⟨?_, fun t full parsed parsedFull => ?_⟩
  · simp only [Option.eq_none_iff_forall_ne_some, ne_eq, ← not_exists, exists_parseTable_iff]
  · obtain ⟨xs, region, split, rfl⟩ := parseTable_eq_some_iff.mp parsed
    have within : WithinCaps (2 ^ 32) 65535 0 xs :=
      ⟨by have := split.count; omega, fun x mem => Nat.le_of_lt_succ (split.codes x mem)⟩
    obtain rfl : parsedTableOf (2 ^ 32) 65535 xs region = full :=
      Option.some.inj ((parseTable_eq_some_iff.mpr ⟨xs, region, split, rfl⟩).symm.trans parsedFull)
    rw [within.parsedTableOf_eq]
    have count : (BitVec.ofNat 32 xs.length).toNat = xs.length := Nat.mod_eq_of_lt split.count
    refine ⟨rfl, count.symm, rfl, rfl, rfl, ?_, fun kept => ?_⟩
    · rw [count, ← not_withinCaps_zero, ← Bool.not_eq_false, not_iff_not]
      exact ParseState.storeAll_overCap_eq_false.trans (and_iff_right rfl)
    · obtain ⟨-, within⟩ := ParseState.storeAll_overCap_eq_false.mp kept
      rw [within.parsedTableOf_eq]

end Sys2Proof.Machine
end

section
/-! GREEDY_DECODE on ENCODE's own bits (43_bit_packer.md R160, R168, R169): with the reverse mapping of a code tree the
accumulator matches exactly when it is a whole code, so the loop writes the input again. -/

namespace Sys2Proof.Machine

theorem ascii_injective : Function.Injective ascii := List.map_injective_iff.mpr fun a b => by
  revert a b
  decide

section

variable {T : CodeTree} (nodup : T.symbols.Nodup)
include nodup

/-- The stored entries are the codes of the tree's leaves. -/
theorem CodeTree.mem_table_entries {code : ByteString} {s : Byte} :
    (code, s) ∈ T.table.entries ↔ ∃ bits, (s, bits) ∈ T.codes ∧ code = ascii bits := by
  have perm : T.table.entries.Perm (T.codes.map fun x => (ascii x.2, x.1)) :=
    ((table_present_perm nodup).map _).trans (.of_eq List.map_map)
  rw [perm.mem_iff, List.mem_map]
  constructor
  · rintro ⟨x, mem, same⟩
    cases same
    exact ⟨x.2, mem, rfl⟩
  · rintro ⟨bits, mem, rfl⟩
    exact ⟨(s, bits), mem, rfl⟩

/-- MATCH finds a symbol exactly at its whole code (R169): no two leaves have the same code. -/
theorem CodeTree.matchCode_eq_some_iff {acc : BitString} {s : Byte} :
    matchCode (buildRmap T.table.entries) acc = some s ↔ (s, acc) ∈ T.codes := by
  have found : ∀ {s}, matchCode (buildRmap T.table.entries) acc = some s → (s, acc) ∈ T.codes := by
    intro s h
    rw [matchCode, laterEntryWins] at h
    obtain ⟨⟨code, _⟩, last, rfl⟩ := Option.map_eq_some_iff.mp h
    obtain rfl : code = ascii acc := by simpa using List.find?_some last
    obtain ⟨bits, mem, same⟩ := (mem_table_entries nodup).mp (List.mem_reverse.mp (List.mem_of_find?_eq_some last))
    rwa [ascii_injective same]
  refine ⟨found, fun code => ?_⟩
  cases h : matchCode (buildRmap T.table.entries) acc with
  | some s' =>
    cases eq_of_bits_prefix (found h) code List.prefix_rfl
    rfl
  | none =>
    rw [matchCode, laterEntryWins, Option.map_eq_none_iff, List.find?_eq_none] at h
    exact absurd (beq_self_eq_true (ascii acc))
      (h (ascii acc, s) (List.mem_reverse.mpr ((mem_table_entries nodup).mpr ⟨acc, code, rfl⟩)))

end

theorem symEncode_cons (c : CodeTable) (b : Byte) (input : ByteString) :
    symEncode c (b :: input) = (c.entry b).bits ++ symEncode c input := rfl

/-- The loop has decoded the first CNT bytes of the input: OBUF holds them, ACC is the beginning of the next byte's code,
and with the bits not yet taken it spells the bytes still to come. -/
structure DecodeRegs.Decoded (c : CodeTable) (input : ByteString) (r : DecodeRegs) : Prop where
  obufWf : r.obuf.wf
  cntLe : r.cnt ≤ input.length
  written : ∀ j, j < r.cnt → r.obuf.get? j = input[j]?
  toCome : r.acc ++ (symEncode c input).drop r.pos = symEncode c (input.drop r.cnt)
  started : ∀ b, input[r.cnt]? = some b → r.acc <+: (c.entry b).bits

theorem DecodeRegs.decoded_start (c : CodeTable) (input : ByteString) :
    DecodeRegs.Decoded c input { acc := [], cnt := 0, pos := 0, obuf := [] } where
  obufWf := List.Pairwise.nil
  cntLe := Nat.zero_le _
  written := nofun
  toCome := rfl
  started := fun _ _ => List.nil_prefix

section

variable {input : ByteString} {T : CodeTree} (tree : IsCodeTreeOf input T) {r : DecodeRegs}
  (decoded : r.Decoded T.table input) (more : r.cnt ≠ input.length)
include tree decoded more

/-- Before the end of the input there is a next byte, its code begins with ACC, and the bits to come begin with its code. -/
theorem DecodeRegs.Decoded.exists_next :
    ∃ b code, input[r.cnt]? = some b ∧ (b, code) ∈ T.codes ∧ r.acc <+: code
      ∧ r.acc ++ (symEncode T.table input).drop r.pos = code ++ symEncode T.table (input.drop (r.cnt + 1)) := by
  have inside : r.cnt < input.length := lt_of_le_of_ne decoded.cntLe more
  obtain ⟨code, mem, entry⟩ := tree.exists_code (List.getElem_mem inside)
  have started := decoded.started _ (List.getElem?_eq_getElem inside)
  have toCome := decoded.toCome
  rw [List.drop_eq_getElem_cons inside, symEncode_cons] at toCome
  rw [entry] at started toCome
  exact ⟨_, code, List.getElem?_eq_getElem inside, mem, started, toCome⟩

/-- A match is the next byte. -/
theorem DecodeRegs.Decoded.emit {s : Byte} (found : matchCode (buildRmap T.table.entries) r.acc = some s) :
    DecodeRegs.Decoded T.table input { r with acc := [], cnt := r.cnt + 1, obuf := r.obuf.write r.cnt s } := by
  obtain ⟨b, code, next, mem, started, toCome⟩ := decoded.exists_next tree more
  cases CodeTree.eq_of_bits_prefix ((CodeTree.matchCode_eq_some_iff tree.nodup).mp found) mem started
  refine ⟨Memory.wf_write decoded.obufWf _ _, lt_of_le_of_ne decoded.cntLe more, fun j below => ?_,
    List.append_cancel_left toCome, fun _ _ => List.nil_prefix⟩
  obtain rfl | ne := eq_or_ne j r.cnt
  · exact (Memory.get?_write_same _ _ _).trans next.symm
  · rw [Memory.get?_write_other decoded.obufWf _ ne]
    exact decoded.written j (lt_of_le_of_ne (Nat.le_of_lt_succ below) ne)

variable (unmatched : matchCode (buildRmap T.table.entries) r.acc = none)
include unmatched

/-- Without a match ACC is shorter than the next byte's code. -/
theorem DecodeRegs.Decoded.exists_longer :
    ∃ b code, input[r.cnt]? = some b ∧ (b, code) ∈ T.codes ∧ r.acc <+: code ∧ r.acc.length < code.length
      ∧ r.acc ++ (symEncode T.table input).drop r.pos = code ++ symEncode T.table (input.drop (r.cnt + 1)) := by
  obtain ⟨b, code, next, mem, started, toCome⟩ := decoded.exists_next tree more
  refine ⟨b, code, next, mem, started, lt_of_le_of_ne started.length_le fun same => ?_, toCome⟩
  cases started.eq_of_length same
  rw [(CodeTree.matchCode_eq_some_iff tree.nodup).mpr mem] at unmatched
  cases unmatched

/-- So a bit is left to take. -/
theorem DecodeRegs.Decoded.pos_lt : r.pos < (symEncode T.table input).length := by
  obtain ⟨b, code, -, -, -, shorter, toCome⟩ := decoded.exists_longer tree more unmatched
  have length := congrArg List.length toCome
  simp only [List.length_append, List.length_drop] at length
  omega

/-- And it is the next one of that code. -/
theorem DecodeRegs.Decoded.take {bit : Bool} (taken : (symEncode T.table input)[r.pos]? = some bit) :
    DecodeRegs.Decoded T.table input { r with acc := r.acc ++ [bit], pos := r.pos + 1 } := by
  obtain ⟨b, code, next, mem, started, shorter, toCome⟩ := decoded.exists_longer tree more unmatched
  obtain ⟨inside, rfl⟩ := List.getElem?_eq_some_iff.mp taken
  have split := List.drop_eq_getElem_cons inside
  rw [split, List.append_cons] at toCome
  refine ⟨decoded.obufWf, decoded.cntLe, decoded.written, ?_, fun b' next' => ?_⟩
  · rw [← decoded.toCome, split]
    exact (List.append_cons ..).symm
  · cases next.symm.trans next'
    rw [CodeTree.table_entry_of_mem_codes tree.nodup mem]
    exact List.prefix_of_prefix_length_le ⟨_, toCome⟩ ⟨_, rfl⟩ (by simpa using shorter)

end

theorem DecodeRegs.Decoded.again {input : ByteString} {T : CodeTree} (tree : IsCodeTreeOf input T) {size : Nat}
    {r r' : DecodeRegs} (decoded : r.Decoded T.table input)
    (h : greedyRound (buildRmap T.table.entries) (symEncode T.table input) input.length size r = .again r') :
    r'.Decoded T.table input := by
  obtain ⟨-, e⟩ | ⟨-, -, -, e⟩ | ⟨more, -, s, found, e⟩ | ⟨-, -, -, -, e⟩ | ⟨-, -, -, -, e⟩
      | ⟨more, unmatched, bit, taken, e⟩ :=
      greedyRound_cases (buildRmap T.table.entries) (symEncode T.table input) input.length size r <;>
    rw [e] at h <;> cases h
  · exact decoded.emit tree more found
  · exact decoded.take tree more unmatched taken

/-- Decoding an input's own bits gives the input, where OBUF has room for it. -/
theorem greedyDecode_symEncode {input : ByteString} {T : CodeTree} (tree : IsCodeTreeOf input T) {size : Nat}
    (room : input.length ≤ size) :
    ∃ d, greedyDecode (buildRmap T.table.entries) (symEncode T.table input) input.length size [] = some (.ok, d)
      ∧ d.cnt = input.length ∧ ∀ j, j < input.length → d.obuf.get? j = input[j]? := by
  obtain ⟨result, d, ran, -, -, -, ends⟩ :=
    greedyDecodeEnds (buildRmap T.table.entries) (symEncode T.table input) input.length size []
  have decoded : d.Decoded T.table input :=
    greedyLoop_keeps (fun _ _ decoded => decoded.again tree) (DecodeRegs.decoded_start _ _) ran
  obtain ⟨rfl, done⟩ | ⟨-, less, spent, empty, unmatched⟩ | ⟨-, less, spent, -, unmatched⟩ | ⟨-, less, full, -⟩ := ends
  · exact ⟨d, ran, done, done ▸ decoded.written⟩
  · exact absurd spent (decoded.pos_lt tree less.ne (empty ▸ unmatched)).ne
  · exact absurd spent (decoded.pos_lt tree less.ne unmatched).ne
  · omega

end Sys2Proof.Machine
end

section
/-! Whole runs of ENCODE and DECODE on an idle machine (45_commands.md R242, R243): each turn as an equation, then the turns of
the command one after the other. -/

namespace Sys2Proof.Machine

theorem step_encode {s : State} (idle : s.busy = false) :
    step (s.withFetchWord 32 1) = .next (s.start .eFreq).okayWrite :=
  (step_withFetchWord s 32 1).trans (congrArg Host.Outcome.next (State.command_idle _ idle))

theorem step_decode {s : State} (idle : s.busy = false) :
    step (s.withFetchWord 32 2) = .next (s.start .dParse).okayWrite :=
  (step_withFetchWord s 32 2).trans (congrArg Host.Outcome.next (State.command_idle _ idle))

section

variable {s : State}

theorem coreTurn_eFreq (phase : s.phase = .eFreq) (fits : s.internal.len.toNat ≤ s.params.ibufSize.toNat)
    (nonempty : s.internal.len ≠ 0) :
    coreTurn s = .next { s with phase := .eTree, internal := { s.internal with freq := freqCount s.input } } := by
  rw [coreTurn, phase]
  exact (if_neg fits.not_gt).trans (if_neg nonempty)

theorem coreTurn_eTree (phase : s.phase = .eTree) {t : Forest} {root : Nat}
    (built : treeBuild s.internal.freq = some (t, root)) :
    coreTurn s
      = .next { s with phase := .eCode, internal := { s.internal with nodes := t.nodes, heap := t.heap, root := root } } := by
  simp only [coreTurn, phase, turnETree, built]

theorem coreTurn_eCode (phase : s.phase = .eCode) {c : CodeTable}
    (generated : codeGen s.internal.nodes s.internal.root = some c) :
    coreTurn s = .next { s with phase := .ePack, internal := { s.internal with code := c } } := by
  simp only [coreTurn, phase, turnECode, generated]

theorem coreTurn_ePack (phase : s.phase = .ePack) :
    coreTurn s = .next { s with phase := .eSer, internal := s.internal.packed s.input } := by
  rw [coreTurn, phase]
  rfl

theorem coreTurn_eSer (phase : s.phase = .eSer) :
    coreTurn s
      = .next (if s.internal.container.length > s.params.obufSize.toNat then s.raise .capacityExceeded
        else State.finish .ok (BitVec.ofNat 32 s.internal.container.length) (BitVec.ofNat 32 s.internal.freq.distinct)
          s.internal.padCount s.internal.len { s with obuf := s.obuf.writeBytes 0 s.internal.container }) := by
  rw [coreTurn, phase]
  exact (apply_ite Host.Outcome.next ..).symm

theorem coreTurn_dParse (phase : s.phase = .dParse) (fits : s.internal.len.toNat ≤ s.params.ibufSize.toNat)
    {t : ParsedTable} (parsed : parseTable s.params.decTableCap.toNat s.params.decCodeCap.toNat s.input = some t)
    (kept : t.overCap = false) {h : RegionHeader}
    (header : readHeader (deobfuscate s.input t.rstart s.internal.k8) = some h) :
    coreTurn s = .next { s with phase := .dDecode, internal := s.internal.parsed t h } := by
  simp only [coreTurn, phase, turnDParse, if_neg fits.not_gt, parsed, kept, header, Bool.false_eq_true, if_false]

theorem coreTurn_dDecode (phase : s.phase = .dDecode) {r : Result} {d : DecodeRegs}
    (decoded : greedyDecode s.internal.rmap s.internal.trimmed s.internal.declLen.toNat s.params.obufSize.toNat s.obuf
      = some (r, d)) :
    coreTurn s = .next (State.endDecode r d.cnt (s.decoded d)) := by
  simp only [coreTurn, phase, turnDDecode, decoded]

end

/-- A code table comes from a tree that was built and walked (R242). -/
theorem exists_treeBuild_codeGen {input : ByteString} {c : CodeTable} (table : codeTableOf input = some c) :
    ∃ t root, treeBuild (freqCount input) = some (t, root) ∧ codeGen t.nodes root = some c := by
  unfold codeTableOf at table
  split at table
  · cases table
  · next t root built => exact ⟨t, root, built, table⟩

/-- The machine as E_FREQ, E_TREE, E_CODE and E_PACK leave it. -/
def State.serializing (t : Forest) (root : Nat) (c : CodeTable) (s : State) : State :=
  { s with
    phase := .eSer
    internal := Internal.packed
      { s.internal with freq := freqCount s.input, nodes := t.nodes, heap := t.heap, root := root, code := c } s.input }

theorem run_to_eSer {s : State} {t : Forest} {root : Nat} {c : CodeTable} (k : Nat) (waits : s.queue = [])
    (phase : s.phase = .eFreq) (fits : s.internal.len.toNat ≤ s.params.ibufSize.toNat) (nonempty : s.internal.len ≠ 0)
    (built : treeBuild (freqCount s.input) = some (t, root)) (generated : codeGen t.nodes root = some c) :
    Sys2Proof.core.run (k + 4) s = Sys2Proof.core.run k (s.serializing t root c) := by
  refine Eq.trans (run_turn waits (coreTurn_eFreq phase fits nonempty)) ?_
  refine Eq.trans (run_turn waits (coreTurn_eTree rfl built)) ?_
  refine Eq.trans (run_turn waits (coreTurn_eCode rfl generated)) ?_
  exact run_turn waits (coreTurn_ePack rfl)

@[simp] theorem State.ibufBytes_length (s : State) (n : Nat) : (s.ibufBytes n).length = n := by simp [ibufBytes]

theorem State.input_length (s : State) : s.input.length = s.internal.len.toNat := s.ibufBytes_length _

/-- What E_SER then writes is the container of the input (44_container.md R204). -/
theorem State.serializing_container (t : Forest) (root : Nat) (c : CodeTable) (s : State) :
    (s.serializing t root c).internal.container = containerWith c s.input s.internal.k8 := by
  rw [containerWith, input_length, BitVec.ofNat_toNat, BitVec.setWidth_eq]
  rfl

/-- The first bytes of OBUF are those a command has written there. -/
theorem State.obufBytes_eq {s : State} {bs : ByteString} {n : Nat} (length : bs.length = n)
    (written : ∀ j, j < bs.length → s.obuf.get? j = bs[j]?) : s.obufBytes n = bs := by
  subst length
  refine List.ext_getElem (by simp [obufBytes]) fun j _ inside => ?_
  simp [obufBytes, obufByte, written j inside, List.getElem?_eq_getElem inside]

/-- `u` is a machine that has finished ENCODE of an input with the code tree `T` under the key byte `k8`. -/
structure HasEncoded (input : ByteString) (k8 : Byte) (T : CodeTree) (u : State) : Prop where
  tree : IsCodeTreeOf input T
  entries : u.entries = BitVec.ofNat 32 (freqCount input).distinct
  pad : u.pad = BitVec.ofNat 8 (padCountOf (symEncode T.table input).length)
  output : u.obufBytes u.outLen.toNat = containerWith T.table input k8

/-- ENCODE that ends with OK leaves the container of its input in OBUF (R242, 44_container.md R204, R205). -/
theorem exists_hasEncoded {s u : State} (idle : s.busy = false) (waits : s.queue = []) (nonempty : 1 ≤ s.inLen.toNat)
    (fits : s.inLen.toNat ≤ s.params.ibufSize.toNat) (ran : Sys2Proof.core.run 6 (s.withFetchWord 32 1) = .next u)
    (ok : u.result = .ok) : ∃ T, HasEncoded (s.ibufBytes s.inLen.toNat) (keyByte s.key) T u := by
  have length := s.ibufBytes_length s.inLen.toNat
  obtain ⟨T, table, tree⟩ := exists_codeTableOf (input := s.ibufBytes s.inLen.toNat)
    (List.ne_nil_of_length_pos (by omega)) (length.trans_lt s.inLen.isLt)
  obtain ⟨t, root, built, generated⟩ := exists_treeBuild_codeGen table
  have len : s.inLen ≠ 0 := fun zero => by simp [zero] at nonempty
  have container : ((s.start .eFreq).okayWrite.serializing t root T.table).internal.container
      = containerWith T.table (s.ibufBytes s.inLen.toNat) (keyByte s.key) := State.serializing_container ..
  have turns := (run_step (k := 5) (step_encode idle)).trans
    ((run_to_eSer (s := (s.start .eFreq).okayWrite) 1 waits rfl fits len built generated).trans
      (run_turn (k := 0) waits (coreTurn_eSer rfl)))
  rw [container] at turns
  cases ran.symm.trans turns
  split at ok
  · cases ok
  · next room =>
    rw [if_neg room]
    have small : (containerWith T.table (s.ibufBytes s.inLen.toNat) (keyByte s.key)).length < 2 ^ 32 :=
      (Nat.le_of_not_gt room).trans_lt s.params.obufSize.isLt
    refine ⟨T, tree, rfl, rfl, State.obufBytes_eq (Nat.mod_eq_of_lt small).symm fun j inside => ?_⟩
    exact (Memory.get?_writeBytes List.Pairwise.nil ..).trans (if_pos ⟨Nat.zero_le j, by rwa [Nat.zero_add]⟩)

/-- The two turns of DECODE on bytes that parse within the capacities. -/
theorem run_from_dParse {s : State} (waits : s.queue = []) (phase : s.phase = .dParse)
    (fits : s.internal.len.toNat ≤ s.params.ibufSize.toNat) {t : ParsedTable}
    (parsed : parseTable s.params.decTableCap.toNat s.params.decCodeCap.toNat s.input = some t) (kept : t.overCap = false)
    {h : RegionHeader} (header : readHeader (deobfuscate s.input t.rstart s.internal.k8) = some h) (obuf : s.obuf = [])
    {r : Result} {d : DecodeRegs}
    (decoded : greedyDecode (buildRmap t.entries) (trim (unpack h.payload) h.padCount.toNat) h.declLen.toNat
      s.params.obufSize.toNat [] = some (r, d)) :
    Sys2Proof.core.run 2 s
      = .next (State.endDecode r d.cnt (State.decoded { s with phase := .dDecode, internal := s.internal.parsed t h } d)) := by
  rw [← obuf] at decoded
  refine Eq.trans (run_turn waits (coreTurn_dParse phase fits parsed kept header)) ?_
  exact run_turn waits (coreTurn_dDecode rfl decoded)

/-- DECODE of bytes that parse within the capacities ends as the decode loop does (R243, R250). -/
theorem exists_run_decode {s : State} (idle : s.busy = false) (waits : s.queue = [])
    (fits : s.inLen.toNat ≤ s.params.ibufSize.toNat) {t : ParsedTable}
    (parsed : parseTable s.params.decTableCap.toNat s.params.decCodeCap.toNat (s.ibufBytes s.inLen.toNat) = some t)
    (kept : t.overCap = false) {h : RegionHeader}
    (header : readHeader (deobfuscate (s.ibufBytes s.inLen.toNat) t.rstart (keyByte s.key)) = some h)
    {r : Result} {d : DecodeRegs}
    (decoded : greedyDecode (buildRmap t.entries) (trim (unpack h.payload) h.padCount.toNat) h.declLen.toNat
      s.params.obufSize.toNat [] = some (r, d)) :
    ∃ w, Sys2Proof.core.run 3 (s.withFetchWord 32 2) = .next w ∧ w.done = true ∧ w.result = r
      ∧ (r.fatal = false → EndsWith w r (BitVec.ofNat 32 d.cnt) t.entryCount h.padCount h.declLen ∧ w.obuf = d.obuf) := by
  have ran := (run_step (k := 2) (step_decode idle)).trans
    (run_from_dParse (s := (s.start .dParse).okayWrite) waits rfl fits parsed kept header rfl decoded)
  refine ⟨_, ran, ?_⟩
  obtain ⟨fatal, ends⟩ | ⟨-, ends⟩ := State.endDecode_cases r d.cnt
    (State.decoded { (s.start .dParse).okayWrite with
      phase := .dDecode, internal := (s.start .dParse).okayWrite.internal.parsed t h } d) <;>
    rw [ends]
  · exact ⟨rfl, rfl, fun notFatal => absurd (notFatal.symm.trans fatal) nofun⟩
  · exact ⟨rfl, rfl, fun _ => ⟨⟨rfl, rfl, rfl, rfl, rfl, rfl, rfl, rfl⟩, rfl⟩⟩

end Sys2Proof.Machine
end

section
/-! DECODE of an ENCODE output (44_container.md R215, R216). -/

namespace Sys2Proof.Machine

/-- A code of an input's tree has at most 255 bits, so the length field holds its length. -/
theorem IsCodeTreeOf.table_lengths {input : ByteString} {T : CodeTree} (tree : IsCodeTreeOf input T) :
    ∀ x ∈ T.table.present, x.2.len.toNat = x.2.bits.length := by
  rintro ⟨b, e⟩ mem
  obtain ⟨rfl, present⟩ := CodeTable.mem_present.mp mem
  obtain ⟨bits, code, entry⟩ := CodeTree.exists_code_of_present present
  rw [entry]
  exact Nat.mod_eq_of_lt ((CodeTree.bits_length_lt code).trans_le tree.length_le)

theorem IsCodeTreeOf.table_present_length {input : ByteString} {T : CodeTree} (tree : IsCodeTreeOf input T) :
    T.table.present.length = (freqCount input).distinct := by
  rw [(CodeTree.table_present_perm tree.nodup).length_eq, List.length_map, tree.length]

/-- The header and payload of an input's region (44_container.md R203). -/
def encodedHeader (c : CodeTable) (input : ByteString) : RegionHeader where
  padCount := BitVec.ofNat 8 (padCountOf (symEncode c input).length)
  declLen := BitVec.ofNat 32 input.length
  payload := pack (symEncode c input) (padCountOf (symEncode c input).length)

theorem containerWith_eq (c : CodeTable) (input : ByteString) (k8 : Byte) :
    containerWith c input k8 = serializeTable c (freqCount input).distinct ++ xorRegion (encodedHeader c input).region k8 :=
  rfl

/-- UNPACK and TRIM give back the input's own bits (43_bit_packer.md R166, R167). -/
theorem trim_unpack_encodedHeader (c : CodeTable) (input : ByteString) :
    trim (unpack (encodedHeader c input).payload) (encodedHeader c input).padCount.toNat = symEncode c input := by
  obtain ⟨small, -⟩ := padCountCompletesTheByte (symEncode c input).length
  have pad : (encodedHeader c input).padCount.toNat = padCountOf (symEncode c input).length :=
    Nat.mod_eq_of_lt (small.trans (by decide))
  rw [pad]
  exact trimUnpackInvertsPack (symEncode c input)

/-- DECODE's loop on the header of an input gives the input back, where OBUF has room for it. -/
theorem exists_greedyDecode_encodedHeader {input : ByteString} {T : CodeTree} (tree : IsCodeTreeOf input T)
    (short : input.length < 2 ^ 32) {size : Nat} (room : input.length ≤ size) :
    ∃ d, greedyDecode (buildRmap T.table.entries)
          (trim (unpack (encodedHeader T.table input).payload) (encodedHeader T.table input).padCount.toNat)
          (encodedHeader T.table input).declLen.toNat size [] = some (.ok, d)
      ∧ d.cnt = input.length ∧ ∀ j, j < input.length → d.obuf.get? j = input[j]? := by
  have declLen : (encodedHeader T.table input).declLen.toNat = input.length := Nat.mod_eq_of_lt short
  rw [trim_unpack_encodedHeader, declLen]
  exact greedyDecode_symEncode tree room

/-- The parse of a container finds the entries of its code table, and where its table ends (44_container.md R204). -/
theorem exists_parseTable_containerWith {input : ByteString} {T : CodeTree} (tree : IsCodeTreeOf input T) {p : Params}
    (legal : p.legal = true) (k8 : Byte) :
    ∃ t, parseTable p.decTableCap.toNat p.decCodeCap.toNat (containerWith T.table input k8) = some t
      ∧ t.overCap = false ∧ t.entries = T.table.entries ∧ t.entryCount = BitVec.ofNat 32 (freqCount input).distinct
      ∧ t.rstart = (serializeTable T.table (freqCount input).distinct).length := by
  have parsed := fun region => parseInvertsSerialize p T.table region legal tree.table_lengths
  rw [tree.table_present_length] at parsed
  exact ⟨_, parsed (xorRegion (encodedHeader T.table input).region k8) (by simp [RegionHeader.region]), rfl, rfl, rfl, rfl⟩

/-- DECODE of an ENCODE output ends as the decode loop does on what the region says under the XOR of the two key bytes. -/
theorem HasEncoded.exists_run_decode {input : ByteString} {k8 : Byte} {T : CodeTree} {u v : State}
    (encoded : HasEncoded input k8 T u) (idle : v.busy = false) (waits : v.queue = []) (legal : v.params.legal = true)
    (inLen : v.inLen = u.outLen) (fits : u.outLen.toNat ≤ v.params.ibufSize.toNat)
    (bytes : v.ibufBytes u.outLen.toNat = u.obufBytes u.outLen.toNat) {h : RegionHeader}
    (header : readHeader (xorRegion (encodedHeader T.table input).region (k8 ^^^ keyByte v.key)) = some h)
    {r : Result} {d : DecodeRegs}
    (decoded : greedyDecode (buildRmap T.table.entries) (trim (unpack h.payload) h.padCount.toNat) h.declLen.toNat
      v.params.obufSize.toNat [] = some (r, d)) :
    ∃ w, Sys2Proof.core.run 3 (v.withFetchWord 32 2) = .next w ∧ w.done = true ∧ w.result = r
      ∧ (r.fatal = false → EndsWith w r (BitVec.ofNat 32 d.cnt) u.entries h.padCount h.declLen ∧ w.obuf = d.obuf) := by
  obtain ⟨t, parsed, kept, entries, count, rstart⟩ := exists_parseTable_containerWith encoded.tree legal k8
  have container : v.ibufBytes v.inLen.toNat = containerWith T.table input k8 := by rw [inLen, bytes, encoded.output]
  rw [encoded.entries, ← count]
  rw [← deobfuscate_append_xorRegion (serializeTable T.table (freqCount input).distinct), ← containerWith_eq, ← rstart]
    at header
  exact Machine.exists_run_decode idle waits (inLen ▸ fits) (container ▸ parsed) kept (container ▸ header)
    (entries ▸ decoded)

/-- IN_LEN is the declared length of what ENCODE read (44_container.md R203). -/
theorem State.ofNat_ibufBytes_length (s : State) (n : Word) : BitVec.ofNat 32 (s.ibufBytes n.toNat).length = n := by
  rw [ibufBytes_length, BitVec.ofNat_toNat, BitVec.setWidth_eq]

/-- Settles O48: under the same key byte the header is ENCODE's own, and the loop decodes the input's own bits. -/
theorem decodeInvertsEncode : Obligations.DecodeInvertsEncode := by
  intro s u v idle waits legal nonempty fits ran ok vIdle vWaits params inLen key bytes outFits room
  obtain ⟨T, encoded⟩ := exists_hasEncoded idle waits nonempty fits ran ok
  have length := s.ibufBytes_length s.inLen.toNat
  have declLen : (encodedHeader T.table (s.ibufBytes s.inLen.toNat)).declLen = s.inLen :=
    s.ofNat_ibufBytes_length s.inLen
  have header : readHeader (xorRegion (encodedHeader T.table (s.ibufBytes s.inLen.toNat)).region
      (keyByte s.key ^^^ keyByte v.key)) = some (encodedHeader T.table (s.ibufBytes s.inLen.toNat)) := by
    rw [key, BitVec.xor_self]
    exact (congrArg readHeader (xorRegion_zero _)).trans (readHeader_region _)
  obtain ⟨d, decoded, cnt, written⟩ := exists_greedyDecode_encodedHeader encoded.tree (length.trans_lt s.inLen.isLt)
    (length.trans_le (params ▸ room))
  obtain ⟨w, wRan, -, -, ends⟩ :=
    encoded.exists_run_decode vIdle vWaits (params ▸ legal) inLen (params ▸ outFits) bytes header decoded
  obtain ⟨ended, obuf⟩ := ends rfl
  rw [cnt, s.ofNat_ibufBytes_length, declLen] at ended
  refine ⟨w, wRan, ?_, State.obufBytes_eq length fun j inside => obuf ▸ written j inside⟩
  rw [encoded.pad]
  exact ended

/-- Settles O49: under another key byte the declared length is another, and OK means that many bytes. -/
theorem wrongKeyNeverGivesTheInput : Obligations.WrongKeyNeverGivesTheInput := by
  intro s u v idle waits legal nonempty fits ran ok vIdle vWaits params inLen key bytes outFits
  obtain ⟨T, encoded⟩ := exists_hasEncoded idle waits nonempty fits ran ok
  have other : keyByte s.key ^^^ keyByte v.key ≠ 0 := fun zero => key (BitVec.xor_eq_zero_iff.mp zero).symm
  obtain ⟨h, header, lengthNe⟩ := exists_readHeader_xorRegion_ne (encodedHeader T.table _) other
  obtain ⟨r, d, decoded, -, -, -, cause⟩ := greedyDecodeEnds (buildRmap T.table.entries)
    (trim (unpack h.payload) h.padCount.toNat) h.declLen.toNat v.params.obufSize.toNat []
  obtain ⟨w, wRan, done, result, ends⟩ :=
    encoded.exists_run_decode vIdle vWaits (params ▸ legal) inLen (params ▸ outFits) bytes header decoded
  refine ⟨w, wRan, done, ?_, ?_⟩ <;> rw [result]
  · obtain ⟨rfl, -⟩ | ⟨rfl, -⟩ | ⟨rfl, -⟩ | ⟨rfl, -⟩ := cause <;> decide
  · rintro rfl same
    obtain ⟨⟨-, -, -, -, outLen, -⟩, -⟩ := ends rfl
    have all : d.cnt = h.declLen.toNat := by simpa using cause
    rw [outLen, all, BitVec.ofNat_toNat, BitVec.setWidth_eq, ← s.ofNat_ibufBytes_length s.inLen] at same
    exact lengthNe same

end Sys2Proof.Machine
end

section
/-! A CTRL write (45_commands.md R240 to R245): how the step decodes it, and what each command word does at once. -/

namespace Sys2Proof.Machine

theorem ctrlWrite_ok {v : Word} {i : Instr} (word : decodeCmd v = .ok i) (s : State) : ctrlWrite v s = exec i s := by
  simp only [ctrlWrite, word]

theorem ctrlWrite_error {v : Word} {e : IllegalWord} (word : decodeCmd v = .error e) (s : State) :
    ctrlWrite v s = execIllegal s := by
  simp only [ctrlWrite, word]

theorem step_ctrlWrite {s : State} {v : Word} {q : List Event}
    (head : s.queue = .transaction (.write .reg 0x00 32 v) :: q) : step s = ctrlWrite v { s with queue := q } :=
  (step_transaction head).trans (hostTransaction_ctrl _ v)

/-- Settles O3: the head of the queue is served as a CTRL write, which decodes its word or is refused. -/
theorem stepRunsDecodedCommand : Obligations.StepRunsDecodedCommand := by
  refine fun s v q head => ⟨fun i word => ?_, fun e word => ?_, fun busy => ?_⟩
  · exact (step_ctrlWrite head).trans (ctrlWrite_ok word _)
  · exact (step_ctrlWrite head).trans (ctrlWrite_error word _)
  · exact (step_transaction head).trans (hostTransaction_ctrl_busy (s := { s with queue := q }) busy v)

theorem exec_idle {s : State} (idle : s.busy = false) (i : Instr) : exec i s = .next (effectOf i s).okayWrite := by
  rw [exec_eq, State.command_idle _ idle]

/-- Settles O4: NOP's effect is none, and a busy machine refuses it. -/
theorem nopIsSkip : Obligations.NopIsSkip :=
  fun _ => ⟨fun idle => exec_idle idle .nop, fun busy => exec_busy busy .nop⟩

/-- Only the encodings 0, 1 and 2 of the three commands are legal (R83). -/
theorem exists_decodeCmd_error {v : Word} (nop : v ≠ 0) (enc : v ≠ 1) (dec : v ≠ 2) :
    ∃ e, decodeCmd v = .error e := by
  obtain ⟨i, word, -⟩ | ⟨-, refused⟩ | ⟨-, refused⟩ := decodeCmd_cases v
  · cases i with
    | nop => exact absurd word nop
    | encode => exact absurd word enc
    | decode => exact absurd word dec
  · exact ⟨_, refused⟩
  · exact ⟨_, refused⟩

theorem execIllegal_idle {s : State} (idle : s.busy = false) : execIllegal s = .next s.illegalCommand.okayWrite :=
  congrArg Host.Outcome.next (State.command_idle _ idle)

/-- Settles O5: such a word decodes to no instruction, and the illegal completion writes just these registers. -/
theorem illegalWordCompletesAtOnce : Obligations.IllegalWordCompletesAtOnce := by
  intro s v nop enc dec idle
  obtain ⟨e, word⟩ := exists_decodeCmd_error nop enc dec
  rw [hostTransaction_ctrl, ctrlWrite_error word]
  exact execIllegal_idle idle

theorem InputsKept.refl (s : State) : InputsKept s s := ⟨rfl, rfl, rfl, rfl, rfl, rfl, rfl⟩

theorem ResultsKept.refl (s : State) : ResultsKept s s := ⟨rfl, rfl, rfl, rfl⟩

theorem InputsKept.ibufByte {s u : State} (kept : InputsKept s u) (n : Nat) : u.ibufByte n = s.ibufByte n := by
  obtain ⟨-, -, -, ibuf, draw, -, -⟩ := kept
  rw [State.ibufByte, State.ibufByte, ibuf, draw]

/-- From idle ENCODE and DECODE are START, each with its first phase (R242, R243). -/
theorem exists_exec_eq_start {s : State} {i : Instr} (starts : i = .encode ∨ i = .decode) (idle : s.busy = false) :
    ∃ first, exec i s = .next (s.start first).okayWrite := by
  obtain rfl | rfl := starts
  · exact ⟨.eFreq, exec_idle idle .encode⟩
  · exact ⟨.dParse, exec_idle idle .decode⟩

theorem count_replicate_zero (b : Byte) : FreqTable.count (Vector.replicate 256 0) b = 0 := Vector.getElem_replicate _

theorem Internal.clear_code_entry (n : Internal) (b : Byte) : (n.clear.code.entry b).present = false := by
  simp [CodeTable.entry]

theorem keyByte_toNat (key : Word) : (keyByte key).toNat = key.toNat % 256 := by simp [keyByte]

/-- Settles O6: both commands begin with START, whose fields these are. -/
theorem startLatchesAndClears : Obligations.StartLatchesAndClears := by
  intro s i starts idle
  obtain ⟨first, ran⟩ := exists_exec_eq_start starts idle
  exact ⟨_, ran, rfl, rfl, rfl, rfl, keyByte_toNat _, count_replicate_zero, rfl, rfl, s.internal.clear_code_entry, rfl, rfl,
    rfl, rfl, ResultsKept.refl s, InputsKept.refl s, rfl⟩

theorem effectOf_frame (i : Instr) (s : State) : InputsKept s (effectOf i s) ∧ ResultsKept s (effectOf i s) := by
  have kept := And.intro (InputsKept.refl s) (ResultsKept.refl s)
  cases i <;> exact kept

/-- Settles O7: a refused command only gets its response, an accepted one has its effect's frame. -/
theorem commandFrame : Obligations.CommandFrame := by
  intro s t i ran
  obtain busy | idle := Bool.eq_false_or_eq_true s.busy
  · cases ran.symm.trans (exec_busy busy i)
    exact ⟨InputsKept.refl s, ResultsKept.refl s, fun _ => rfl, fun _ => ⟨rfl, rfl, rfl, fun _ => rfl⟩⟩
  · cases ran.symm.trans (exec_idle idle i)
    obtain ⟨inputs, results⟩ := effectOf_frame i s
    refine ⟨inputs, results, inputs.ibufByte, ?_⟩
    rintro (busy | rfl)
    · exact absurd (idle.symm.trans busy) nofun
    · exact ⟨rfl, rfl, rfl, fun _ => rfl⟩

end Sys2Proof.Machine
end

section
/-! The turns of E_FREQ and D_PARSE, which hold a command's checks (45_commands.md R248, R249): an equation for each check that
fails. -/

namespace Sys2Proof.Machine

section

variable {s : State}

theorem coreTurn_eFreq_tooLong (phase : s.phase = .eFreq) (tooLong : s.params.ibufSize.toNat < s.internal.len.toNat) :
    coreTurn s = .next (s.raise .capacityExceeded) := by
  rw [coreTurn, phase]
  exact if_pos tooLong

theorem coreTurn_eFreq_empty (phase : s.phase = .eFreq) (fits : s.internal.len.toNat ≤ s.params.ibufSize.toNat)
    (empty : s.internal.len = 0) : coreTurn s = .next (s.raise .emptyInput) := by
  rw [coreTurn, phase]
  exact (if_neg fits.not_gt).trans (if_pos empty)

/-- Everything an E_FREQ turn can do: fail a check, or go on. -/
theorem coreTurn_eFreq_cases (phase : s.phase = .eFreq) :
    coreTurn s = .next (s.raise .capacityExceeded) ∨ coreTurn s = .next (s.raise .emptyInput)
      ∨ ∃ n, coreTurn s = .next { s with phase := .eTree, internal := n } := by
  obtain tooLong | fits := lt_or_ge s.params.ibufSize.toNat s.internal.len.toNat
  · exact .inl (coreTurn_eFreq_tooLong phase tooLong)
  · by_cases empty : s.internal.len = 0
    · exact .inr (.inl (coreTurn_eFreq_empty phase fits empty))
    · exact .inr (.inr ⟨_, coreTurn_eFreq phase fits empty⟩)

theorem coreTurn_dParse_tooLong (phase : s.phase = .dParse) (tooLong : s.params.ibufSize.toNat < s.internal.len.toNat) :
    coreTurn s = .next (s.raise .capacityExceeded) := by
  rw [coreTurn, phase]
  exact if_pos tooLong

theorem coreTurn_dParse_truncated (phase : s.phase = .dParse) (fits : s.internal.len.toNat ≤ s.params.ibufSize.toNat)
    (truncated : parseTable s.params.decTableCap.toNat s.params.decCodeCap.toNat s.input = none) :
    coreTurn s = .next (s.raise .truncatedContainer) := by
  simp only [coreTurn, phase, turnDParse, if_neg fits.not_gt, truncated]

theorem coreTurn_dParse_overCap (phase : s.phase = .dParse) (fits : s.internal.len.toNat ≤ s.params.ibufSize.toNat)
    {t : ParsedTable} (parsed : parseTable s.params.decTableCap.toNat s.params.decCodeCap.toNat s.input = some t)
    (exceeded : t.overCap = true) : coreTurn s = .next (s.raise .capacityExceeded) := by
  simp only [coreTurn, phase, turnDParse, if_neg fits.not_gt, parsed, exceeded, if_true]

/-- What the parse accepts has a region of at least five bytes, which hold a header (44_container.md R208, R212). -/
theorem exists_readHeader_of_parseTable {tableCap codeCap : Nat} {input : ByteString} {t : ParsedTable}
    (parsed : parseTable tableCap codeCap input = some t) (k8 : Byte) :
    ∃ h, readHeader (deobfuscate input t.rstart k8) = some h := by
  obtain ⟨-, reads⟩ := parseReadsOnlyBytesItHas tableCap codeCap input []
  obtain ⟨length, -⟩ := reads t parsed
  have enough : 5 ≤ (deobfuscate input t.rstart k8).length := by
    rw [deobfuscate, xorRegion_length, List.length_drop]
    omega
  match deobfuscate input t.rstart k8, enough with
  | _ :: _ :: _ :: _ :: _ :: _, _ => exact ⟨_, rfl⟩

/-- Everything a D_PARSE turn can do: fail a check, or go on. -/
theorem coreTurn_dParse_cases (phase : s.phase = .dParse) :
    coreTurn s = .next (s.raise .capacityExceeded) ∨ coreTurn s = .next (s.raise .truncatedContainer)
      ∨ ∃ n, coreTurn s = .next { s with phase := .dDecode, internal := n } := by
  obtain tooLong | fits := lt_or_ge s.params.ibufSize.toNat s.internal.len.toNat
  · exact .inl (coreTurn_dParse_tooLong phase tooLong)
  · cases parsed : parseTable s.params.decTableCap.toNat s.params.decCodeCap.toNat s.input with
    | none => exact .inr (.inl (coreTurn_dParse_truncated phase fits parsed))
    | some t =>
      cases kept : t.overCap with
      | true => exact .inl (coreTurn_dParse_overCap phase fits parsed kept)
      | false =>
        obtain ⟨h, header⟩ := exists_readHeader_of_parseTable parsed s.internal.k8
        exact .inr (.inr ⟨_, coreTurn_dParse phase fits parsed kept header⟩)

end

/-- Either end of the decode loop completes the command with the loop's result (R250). -/
theorem State.endDecode_result (r : Result) (n : Nat) (s : State) : (State.endDecode r n s).result = r := by
  obtain ⟨-, ends⟩ | ⟨-, ends⟩ := State.endDecode_cases r n s <;> rw [ends] <;> rfl

theorem State.endDecode_phase (r : Result) (n : Nat) (s : State) : (State.endDecode r n s).phase = .idle := by
  obtain ⟨-, ends⟩ | ⟨-, ends⟩ := State.endDecode_cases r n s <;> rw [ends] <;> rfl

end Sys2Proof.Machine
end

section
/-! What a core turn leaves alone, where it goes and how it ends a command (45_commands.md R242, R243, R246, R247, R250). -/

namespace Sys2Proof.Machine

theorem TurnEffect.frame {s s' : State} (effect : TurnEffect s s') : InputsKept s s' ∧ s'.responses = s.responses := by
  have kept : InputsKept s s ∧ s.responses = s.responses := ⟨.refl s, rfl⟩
  cases effect with
  | decode _ r d =>
    obtain ⟨-, ends⟩ | ⟨-, ends⟩ := State.endDecode_cases r d.cnt (s.decoded d) <;> rw [ends] <;> exact kept
  | wait | raise | freq | tree | code | pack | serialize | parse => exact kept

/-- The phase after this one in its command's sequence (R246, R247). -/
def Phase.successor : Phase → Option Phase
  | .eFreq => some .eTree
  | .eTree => some .eCode
  | .eCode => some .ePack
  | .ePack => some .eSer
  | .dParse => some .dDecode
  | .idle | .eSer | .dDecode => none

theorem Phase.successor_ne_idle (p : Phase) : p.successor ≠ some .idle := by cases p <;> nofun

/-- The results in which a command can end in this phase (R242, R243). -/
def Phase.results : Phase → List Result
  | .eFreq => [.capacityExceeded, .emptyInput]
  | .eSer => [.ok, .capacityExceeded]
  | .dParse => [.capacityExceeded, .truncatedContainer]
  | .dDecode => [.ok, .lengthMismatch, .unmappableCode, .capacityExceeded]
  | .idle | .eTree | .eCode | .ePack => []

/-- The decode loop's results, and that it ends with OK only at the declared length (43_bit_packer.md R168). -/
theorem greedyDecode_result {m : ReverseMap} {bits : BitString} {declLen size : Nat} {obuf : Memory} {r : Result}
    {d : DecodeRegs} (ran : greedyDecode m bits declLen size obuf = some (r, d)) :
    r ∈ Phase.dDecode.results ∧ (r = .ok → d.cnt = declLen) := by
  obtain ⟨r', d', ends, -, -, -, cause⟩ := greedyDecodeEnds m bits declLen size obuf
  cases ran.symm.trans ends
  obtain ⟨rfl, done⟩ | ⟨rfl, -⟩ | ⟨rfl, -⟩ | ⟨rfl, -⟩ := cause
  · exact ⟨by decide, fun _ => done⟩
  all_goals exact ⟨by decide, nofun⟩

/-- The host sees nothing of the turn: STATUS, the result registers and OBUF keep their contents. -/
def Unseen (s s' : State) : Prop := s'.status = s.status ∧ ResultsKept s s' ∧ s'.obuf = s.obuf

/-- A turn of a running command ends it with a result of the phase, or goes on to the next phase unseen. -/
theorem coreTurn_ends_or_goesOn {s s' : State} (running : s.phase ≠ .idle) (turn : coreTurn s = .next s') :
    (s'.phase = .idle ∧ s'.result ∈ s.phase.results) ∨ (s.phase.successor = some s'.phase ∧ Unseen s s') := by
  have unseen : Unseen s s := ⟨rfl, .refl s, rfl⟩
  have same {u : State} (e : coreTurn s = .next u) : s' = u := by
    cases turn.symm.trans e
    rfl
  cases phase : s.phase with
  | idle => exact absurd phase running
  | eFreq =>
    obtain e | e | ⟨_, e⟩ := coreTurn_eFreq_cases phase <;> rw [same e]
    · exact .inl ⟨rfl, .head _⟩
    · exact .inl ⟨rfl, .tail _ (.head _)⟩
    · exact .inr ⟨rfl, unseen⟩
  | eTree =>
    cases built : treeBuild s.internal.freq with
    | none => simp [coreTurn, phase, turnETree, built] at turn
    | some x =>
      rw [same (coreTurn_eTree phase built)]
      exact .inr ⟨rfl, unseen⟩
  | eCode =>
    cases generated : codeGen s.internal.nodes s.internal.root with
    | none => simp [coreTurn, phase, turnECode, generated] at turn
    | some c =>
      rw [same (coreTurn_eCode phase generated)]
      exact .inr ⟨rfl, unseen⟩
  | ePack =>
    rw [same (coreTurn_ePack phase)]
    exact .inr ⟨rfl, unseen⟩
  | eSer =>
    rw [same (coreTurn_eSer phase)]
    split
    · exact .inl ⟨rfl, .tail _ (.head _)⟩
    · exact .inl ⟨rfl, .head _⟩
  | dParse =>
    obtain e | e | ⟨_, e⟩ := coreTurn_dParse_cases phase <;> rw [same e]
    · exact .inl ⟨rfl, .head _⟩
    · exact .inl ⟨rfl, .tail _ (.head _)⟩
    · exact .inr ⟨rfl, unseen⟩
  | dDecode =>
    obtain ⟨r, d, ran, -⟩ := greedyDecodeEnds s.internal.rmap s.internal.trimmed s.internal.declLen.toNat
      s.params.obufSize.toNat s.obuf
    obtain ⟨mem, -⟩ := greedyDecode_result ran
    rw [same (coreTurn_dDecode phase ran), State.endDecode_result]
    exact .inl ⟨State.endDecode_phase .., mem⟩

theorem coreTurn_idle {s : State} (idle : s.phase = .idle) : coreTurn s = .next s := by simp only [coreTurn, idle]

/-- Settles O13: the turn's result is one of its phase, and each of those is one of its command. -/
theorem resultsOfEachCommand : Obligations.ResultsOfEachCommand := by
  intro s s' turn running idle
  have encode : ∀ p ∈ [Phase.eFreq, .eTree, .eCode, .ePack, .eSer], ∀ r ∈ p.results,
      r ∈ [Result.ok, .emptyInput, .capacityExceeded] := by decide
  have decode : ∀ p ∈ [Phase.dParse, .dDecode], ∀ r ∈ p.results,
      r ∈ [Result.ok, .truncatedContainer, .lengthMismatch, .unmappableCode, .capacityExceeded] := by decide
  obtain ⟨-, result⟩ | ⟨next, -⟩ := coreTurn_ends_or_goesOn running turn
  · exact ⟨fun phase => encode _ phase _ result, fun phase => decode _ phase _ result⟩
  · exact absurd (next.trans (congrArg some idle)) s.phase.successor_ne_idle

/-- Settles O11: START enters the first phase, a turn goes to the phase's successor or, where it has results, to IDLE. -/
theorem phasesFollowTheSequence : Obligations.PhasesFollowTheSequence := by
  refine ⟨fun s t i idle ran => ?_, fun s s' turn => ?_⟩
  · cases ran.symm.trans (exec_idle idle i)
    cases i <;> rfl
  · obtain ⟨inputs, responses⟩ := (coreTurn_cases turn).frame
    refine ⟨inputs, responses, ?_⟩
    by_cases running : s.phase = .idle
    · cases turn.symm.trans (coreTurn_idle running)
      simp [running]
    · obtain ⟨ended, result⟩ | ⟨next, unseen⟩ := coreTurn_ends_or_goesOn running turn
      · refine ⟨?_, fun goesOn => absurd ended goesOn⟩
        revert result
        cases phase : s.phase with
        | idle => exact absurd phase running
        | eFreq | dParse => exact fun _ => .inr ended
        | eTree | eCode | ePack => exact nofun
        | eSer | dDecode => exact fun _ => ended
      · refine ⟨?_, fun _ => unseen⟩
        revert next
        cases s.phase with
        | idle | eSer | dDecode => exact nofun
        | eFreq | dParse => exact fun next => .inl (Option.some.inj next).symm
        | eTree | eCode | ePack => exact fun next => (Option.some.inj next).symm

/-- What was written at the front of an OBUF in canonical form is what its first bytes are. -/
theorem State.obufBytes_of_writeBytes {u : State} {m : Memory} {bs : ByteString} (canonical : m.wf)
    (obuf : u.obuf = m.writeBytes 0 bs) : u.obufBytes bs.length = bs := by
  refine State.obufBytes_eq rfl fun j inside => ?_
  rw [obuf, Memory.get?_writeBytes canonical, if_pos ⟨Nat.zero_le j, by rwa [Nat.zero_add]⟩, Nat.sub_zero]

theorem State.finish_endsWith (r : Result) (n e : Word) (p : Byte) (d : Word) (s : State) :
    EndsWith (s.finish r n e p d) r n e p d := ⟨rfl, rfl, rfl, rfl, rfl, rfl, rfl, rfl⟩

theorem State.raise_endsWith (r : Result) (s : State) : EndsWith (s.raise r) r 0 0 0 0 :=
  ⟨rfl, rfl, rfl, rfl, rfl, rfl, rfl, rfl⟩

theorem Result.fatal_eq_false_iff {r : Result} : r.fatal = false ↔ r = .ok ∨ r = .lengthMismatch := by
  cases r <;> decide

/-- Settles O12: the turns that end a command are those that raise, the one that serializes, and the decode loop's. -/
theorem completionWritesResults : Obligations.CompletionWritesResults := by
  intro s s' canonical running turn ended
  have notKept {r : Result} (fatal : r.fatal = true) : ¬ (r = .ok ∨ r = .lengthMismatch) := by
    simp [← Result.fatal_eq_false_iff, fatal]
  cases coreTurn_cases turn with
  | wait idle => exact absurd idle running
  | freq | tree | code | pack | parse => cases ended
  | raise r _ fatal =>
    exact ⟨r, 0, 0, 0, 0, s.raise_endsWith r, fun _ _ => ⟨rfl, rfl, rfl, rfl⟩, fun kept => absurd kept (notKept fatal)⟩
  | serialize phase =>
    refine ⟨.ok, _, _, _, _, State.finish_endsWith .., nofun, fun _ => .inl ⟨phase, rfl, rfl, rfl, rfl, rfl, ?_⟩⟩
    exact State.obufBytes_of_writeBytes canonical rfl
  | decode phase r d ran =>
    obtain ⟨fatal, ends⟩ | ⟨nonfatal, ends⟩ := State.endDecode_cases r d.cnt (s.decoded d) <;> rw [ends]
    · exact ⟨r, 0, 0, 0, 0, State.raise_endsWith .., fun _ _ => ⟨rfl, rfl, rfl, rfl⟩,
        fun kept => absurd kept (notKept fatal)⟩
    · obtain ⟨-, atDeclLen⟩ := greedyDecode_result ran
      refine ⟨r, _, _, _, _, State.finish_endsWith .., fun notOk notMismatch => ?_,
        fun _ => .inr ⟨phase, rfl, rfl, rfl, rfl, atDeclLen⟩⟩
      exact absurd (Result.fatal_eq_false_iff.mp nonfatal) (not_or.mpr ⟨notOk, notMismatch⟩)

end Sys2Proof.Machine
end

section
/-! Progress (45_commands.md R251): a machine that meets the invariant always has a next state, and left alone it completes its
command. -/

namespace Sys2Proof.Machine

/-- An input of a length above 0 has a code table (R242). -/
theorem exists_codeTableOf_of_length {input : ByteString} {len : Word} (length : input.length = len.toNat)
    (nonempty : len ≠ 0) : ∃ c, codeTableOf input = some c := by
  have positive : len.toNat ≠ 0 := fun zero => nonempty (BitVec.eq_of_toNat_eq zero)
  obtain ⟨T, table, -⟩ := exists_codeTableOf (input := input) (List.ne_nil_of_length_pos (by omega))
    (length.trans_lt len.isLt)
  exact ⟨T.table, table⟩

/-- TREE_BUILD and CODEGEN succeed on the input of a command with LEN above 0. -/
theorem exists_treeBuild_input {s : State} (nonempty : s.internal.len ≠ 0) :
    ∃ t root c, treeBuild (freqCount s.input) = some (t, root) ∧ codeGen t.nodes root = some c := by
  obtain ⟨c, table⟩ := exists_codeTableOf_of_length s.input_length nonempty
  obtain ⟨t, root, units⟩ := exists_treeBuild_codeGen table
  exact ⟨t, root, c, units⟩

/-- A core turn never faults: the earlier phases have left what the present one needs. -/
theorem SafeState.exists_coreTurn {s : State} (safe : SafeState s) : ∃ s', coreTurn s = .next s' := by
  cases phase : s.phase with
  | idle => exact ⟨_, coreTurn_idle phase⟩
  | eFreq => obtain e | e | ⟨_, e⟩ := coreTurn_eFreq_cases phase <;> exact ⟨_, e⟩
  | eTree =>
    obtain ⟨nonempty, counted⟩ := (phaseWork_eTree_iff phase).mp safe.work
    obtain ⟨t, root, c, built, -⟩ := exists_treeBuild_input nonempty
    exact ⟨_, coreTurn_eTree phase (counted ▸ built)⟩
  | eCode =>
    obtain ⟨nonempty, counted, built⟩ := (phaseWork_eCode_iff phase).mp safe.work
    obtain ⟨t, root, c, rebuilt, generated⟩ := exists_treeBuild_input nonempty
    cases built.symm.trans ((congrArg treeBuild counted).trans rebuilt)
    exact ⟨_, coreTurn_eCode phase generated⟩
  | ePack => exact ⟨_, coreTurn_ePack phase⟩
  | eSer => exact ⟨_, coreTurn_eSer phase⟩
  | dParse => obtain e | e | ⟨_, e⟩ := coreTurn_dParse_cases phase <;> exact ⟨_, e⟩
  | dDecode =>
    obtain ⟨r, d, ran, -⟩ := greedyDecodeEnds s.internal.rmap s.internal.trimmed s.internal.declLen.toNat
      s.params.obufSize.toNat s.obuf
    exact ⟨_, coreTurn_dDecode phase ran⟩

/-- Settles O53: a reset and a transaction always get a next state, and a core turn does in a state that meets the
invariant. -/
theorem machineNeverStops : Obligations.MachineNeverStops := by
  intro s safe
  match head : s.queue with
  | [] => exact step_empty head ▸ safe.exists_coreTurn
  | .coreTurn :: q => exact step_coreTurn head ▸ (safe.withQueue q).exists_coreTurn
  | .reset :: q => exact ⟨_, step_reset head⟩
  | .transaction t :: q =>
    obtain ⟨u, r, served, -⟩ := hostTransaction_next t { s with queue := q }
    exact ⟨_, (step_transaction head).trans served⟩

/-- The turns left from a phase on, where no check fails (R246, R247). -/
def Phase.turnsLeft : Phase → Nat
  | .idle => 0
  | .eFreq => 5
  | .eTree => 4
  | .eCode => 3
  | .ePack => 2
  | .eSer => 1
  | .dParse => 2
  | .dDecode => 1

theorem Phase.turnsLeft_le (p : Phase) : p.turnsLeft ≤ 5 := by cases p <;> decide

theorem Phase.turnsLeft_eq_zero {p : Phase} (h : p.turnsLeft = 0) : p = .idle := by
  cases p with
  | idle => rfl
  | _ => cases h

theorem Phase.turnsLeft_of_successor {p p' : Phase} (h : p.successor = some p') :
    p.turnsLeft = p'.turnsLeft + 1 := by
  cases p <;> cases h <;> rfl

theorem InputsKept.trans {s u v : State} (first : InputsKept s u) (second : InputsKept u v) : InputsKept s v := by
  obtain ⟨params, key, inLen, ibuf, ibufDraw, busyDraw, queue⟩ := first
  obtain ⟨params', key', inLen', ibuf', ibufDraw', busyDraw', queue'⟩ := second
  exact ⟨params'.trans params, key'.trans key, inLen'.trans inLen, ibuf'.trans ibuf, ibufDraw'.trans ibufDraw,
    busyDraw'.trans busyDraw, queue'.trans queue⟩

theorem InputsKept.waits {s u : State} (kept : InputsKept s u) (waits : s.queue = []) : u.queue = [] := by
  obtain ⟨-, -, -, -, -, -, queue⟩ := kept
  exact queue.trans waits

/-- A running machine left alone completes its command within the turns left. -/
theorem SafeState.exists_run_completes {s : State} (safe : SafeState s) (running : s.phase ≠ .idle)
    (waits : s.queue = []) :
    ∃ k u, k ≤ s.phase.turnsLeft ∧ Sys2Proof.core.run k s = .next u ∧ u.busy = false ∧ u.done = true ∧ u.phase = .idle
      ∧ InputsKept s u := by
  induction left : s.phase.turnsLeft generalizing s with
  | zero => exact absurd (Phase.turnsLeft_eq_zero left) running
  | succ n ih =>
    obtain ⟨s1, turn⟩ := safe.exists_coreTurn
    obtain ⟨kept, -⟩ := (coreTurn_cases turn).frame
    obtain ⟨ended, -⟩ | ⟨next, -⟩ := coreTurn_ends_or_goesOn running turn
    · obtain ⟨busy, done⟩ := step_completes (.inl waits) running ended ((step_empty waits).trans turn)
      exact ⟨1, s1, Nat.le_add_left .., run_turn waits turn, busy, done, ended, kept⟩
    · have running1 : s1.phase ≠ .idle := fun idle => s.phase.successor_ne_idle (next.trans (congrArg some idle))
      have left1 : s1.phase.turnsLeft = n := Nat.succ.inj ((Phase.turnsLeft_of_successor next).symm.trans left)
      obtain ⟨k, u, within, ran, busy, done, idle, kept1⟩ :=
        ih ((coreTurn_cases turn).safeState safe) running1 (kept.waits waits) left1
      exact ⟨k + 1, u, Nat.succ_le_succ within, (run_turn waits turn).trans ran, busy, done, idle, kept.trans kept1⟩

/-- Settles O54: a busy machine runs a phase, of which at most five turns are left. -/
theorem everyCommandCompletes : Obligations.EveryCommandCompletes := by
  intro s safe busy waits
  have running : s.phase ≠ .idle := fun idle => by simp [safe.idleIff.mp idle] at busy
  obtain ⟨k, u, within, ends⟩ := safe.exists_run_completes running waits
  exact ⟨k, u, within.trans s.phase.turnsLeft_le, ends⟩

end Sys2Proof.Machine
end

section
/-! Whole commands from an idle machine (45_commands.md R242, R243, R248, R249, R250): the runs that the checks let through, and
what every run of turns leaves alone. -/

namespace Sys2Proof.Machine

theorem exists_step_of_run {k : Nat} {s u : State} (ran : Sys2Proof.core.run (k + 1) s = .next u) :
    ∃ s1, step s = .next s1 ∧ Sys2Proof.core.run k s1 = .next u := by
  cases stepped : step s with
  | next s1 => exact ⟨s1, rfl, (run_step stepped).symm.trans ran⟩
  | fault r | refused r =>
    simp only [Host.Core.run, show Sys2Proof.core.step s = _ from stepped] at ran
    cases ran

/-- No run of core turns changes an input or a response. -/
theorem run_frame {k : Nat} {s u : State} (waits : s.queue = []) (ran : Sys2Proof.core.run k s = .next u) :
    InputsKept s u ∧ u.responses = s.responses := by
  induction k generalizing s with
  | zero =>
    cases ran
    exact ⟨.refl _, rfl⟩
  | succ k ih =>
    obtain ⟨s1, stepped, rest⟩ := exists_step_of_run ran
    obtain ⟨kept, responses⟩ := (coreTurn_cases ((step_empty waits).symm.trans stepped)).frame
    obtain ⟨kept1, responses1⟩ := ih (kept.waits waits) rest
    exact ⟨kept.trans kept1, responses1.trans responses⟩

/-- A machine that has become idle with nothing waiting stays as it is. -/
theorem run_stays {m : Nat} {s u : State} (ran : Sys2Proof.core.run m s = .next u) (waits : u.queue = [])
    (idle : u.phase = .idle) (k : Nat) : Sys2Proof.core.run (m + k) s = .next u := by
  induction m generalizing s with
  | zero =>
    cases ran
    rw [Nat.zero_add, run_idle k waits idle]
  | succ m ih =>
    obtain ⟨s1, stepped, rest⟩ := exists_step_of_run ran
    rw [Nat.succ_add, run_step stepped, ih rest]

@[simp] theorem State.serializing_params (t : Forest) (root : Nat) (c : CodeTable) (s : State) :
    (s.serializing t root c).params = s.params := rfl

/-- ENCODE of an input that passes checks (a) and (b) ends as check (c) says: with the container, or without (R248). -/
theorem exists_run_eFreq {s : State} (waits : s.queue = []) (phase : s.phase = .eFreq)
    (fits : s.internal.len.toNat ≤ s.params.ibufSize.toNat) (nonempty : s.internal.len ≠ 0) {c : CodeTable}
    (table : codeTableOf s.input = some c) {container : ByteString}
    (output : containerWith c s.input s.internal.k8 = container) :
    ∃ u, Sys2Proof.core.run 5 s = .next u
      ∧ (s.params.obufSize.toNat < container.length → EndsWith u .capacityExceeded 0 0 0 0 ∧ u.obuf = [])
      ∧ (container.length ≤ s.params.obufSize.toNat →
          EndsWith u .ok (BitVec.ofNat 32 container.length) (BitVec.ofNat 32 (freqCount s.input).distinct)
            (BitVec.ofNat 8 (padCountOf (symEncode c s.input).length)) s.internal.len
          ∧ u.obuf = s.obuf.writeBytes 0 container) := by
  obtain ⟨t, root, built, generated⟩ := exists_treeBuild_codeGen table
  have written : (s.serializing t root c).internal.container = container := (s.serializing_container t root c).trans output
  have ran := (run_to_eSer 1 waits phase fits nonempty built generated).trans
    (run_turn (k := 0) waits (coreTurn_eSer rfl))
  rw [written, State.serializing_params] at ran
  refine ⟨_, ran, fun long => ?_, fun room => ?_⟩
  · rw [if_pos long]
    exact ⟨State.raise_endsWith .., rfl⟩
  · rw [if_neg room.not_gt]
    exact ⟨State.finish_endsWith .., rfl⟩

/-- DECODE of bytes that pass every check ends as the decode loop does (R249, R250). -/
theorem exists_run_dParse {s : State} (waits : s.queue = []) (phase : s.phase = .dParse)
    (fits : s.internal.len.toNat ≤ s.params.ibufSize.toNat) {t : ParsedTable}
    (parsed : parseTable s.params.decTableCap.toNat s.params.decCodeCap.toNat s.input = some t) (kept : t.overCap = false)
    {h : RegionHeader} (header : readHeader (deobfuscate s.input t.rstart s.internal.k8) = some h) (obuf : s.obuf = [])
    {r : Result} {d : DecodeRegs}
    (decoded : greedyDecode (buildRmap t.entries) (trim (unpack h.payload) h.padCount.toNat) h.declLen.toNat
      s.params.obufSize.toNat [] = some (r, d)) :
    ∃ u, Sys2Proof.core.run 2 s = .next u ∧ (r.fatal = true → EndsWith u r 0 0 0 0 ∧ u.obuf = [])
      ∧ (r.fatal = false → EndsWith u r (BitVec.ofNat 32 d.cnt) t.entryCount h.padCount h.declLen ∧ u.obuf = d.obuf) := by
  refine ⟨_, run_from_dParse waits phase fits parsed kept header obuf decoded, fun fatal => ?_, fun nonfatal => ?_⟩
  · rw [State.endDecode, if_pos fatal]
    exact ⟨State.raise_endsWith .., rfl⟩
  · rw [State.endDecode, nonfatal]
    exact ⟨State.finish_endsWith .., rfl⟩

/-- Settles O9: check (a) fails, or (b), or the container is made and check (c) decides. -/
theorem encodeChecksInOrder : Obligations.EncodeChecksInOrder := by
  intro s idle waits
  have ran := exec_idle idle .encode
  obtain tooLong | fits := lt_or_ge s.params.ibufSize.toNat s.inLen.toNat
  · have turns := run_raise (s := (s.start .eFreq).okayWrite) 4 waits (coreTurn_eFreq_tooLong rfl tooLong)
    refine ⟨_, _, ran, turns, .refl s, rfl, fun _ => ⟨State.raise_endsWith .., rfl⟩, ?_, ?_⟩
    all_goals exact fun fits => absurd tooLong fits.not_gt
  · by_cases empty : s.inLen = 0
    · have turns := run_raise (s := (s.start .eFreq).okayWrite) 4 waits (coreTurn_eFreq_empty rfl fits empty)
      exact ⟨_, _, ran, turns, .refl s, rfl, fun tooLong => absurd tooLong fits.not_gt,
        fun _ _ => ⟨State.raise_endsWith .., rfl⟩, fun _ nonempty => absurd empty nonempty⟩
    · obtain ⟨c, table⟩ := exists_codeTableOf_of_length (s.ibufBytes_length s.inLen.toNat) empty
      obtain ⟨u, turns, long, room⟩ := exists_run_eFreq (s := (s.start .eFreq).okayWrite) waits rfl fits empty table rfl
      obtain ⟨kept, responses⟩ := run_frame (s := (s.start .eFreq).okayWrite) waits turns
      refine ⟨_, u, ran, turns, kept, responses, fun tooLong => absurd tooLong fits.not_gt,
        fun _ zero => absurd zero empty, fun _ _ => ⟨c, table, long, fun small => ?_⟩⟩
      obtain ⟨ends, obuf⟩ := room small
      exact ⟨ends, State.obufBytes_of_writeBytes .nil obuf⟩

/-- Settles O10: a check fails, or the loop runs on what the parse and the header give. -/
theorem decodeChecksInOrder : Obligations.DecodeChecksInOrder := by
  intro s idle waits input parsed
  have ran := exec_idle idle .decode
  obtain tooLong | fits := lt_or_ge s.params.ibufSize.toNat s.inLen.toNat
  · have turns := run_raise (s := (s.start .dParse).okayWrite) 1 waits (coreTurn_dParse_tooLong rfl tooLong)
    refine ⟨_, _, ran, turns, .refl s, rfl, fun _ => State.raise_endsWith .., ?_, ?_, ?_⟩
    all_goals exact fun fits => absurd tooLong fits.not_gt
  · have notTooLong {P : Prop} : s.inLen.toNat > s.params.ibufSize.toNat → P := fun tooLong => absurd tooLong fits.not_gt
    cases table : parsed with
    | none =>
      have turns := run_raise (s := (s.start .dParse).okayWrite) 1 waits (coreTurn_dParse_truncated rfl fits table)
      exact ⟨_, _, ran, turns, .refl s, rfl, notTooLong, fun _ _ => State.raise_endsWith .., nofun, nofun⟩
    | some t =>
      cases kept : t.overCap with
      | true =>
        have turns := run_raise (s := (s.start .dParse).okayWrite) 1 waits (coreTurn_dParse_overCap rfl fits table kept)
        refine ⟨_, _, ran, turns, .refl s, rfl, notTooLong, nofun, fun _ _ _ _ => State.raise_endsWith .., ?_⟩
        rintro - _ ⟨⟩ within
        exact absurd (kept.symm.trans within) nofun
      | false =>
        obtain ⟨h, header⟩ := exists_readHeader_of_parseTable table (keyByte s.key)
        obtain ⟨r, d, decoded, -⟩ := greedyDecodeEnds (buildRmap t.entries) (trim (unpack h.payload) h.padCount.toNat)
          h.declLen.toNat s.params.obufSize.toNat []
        obtain ⟨u, turns, fatal, nonfatal⟩ := exists_run_dParse (s := (s.start .dParse).okayWrite) waits rfl fits table kept
          header rfl decoded
        obtain ⟨inputs, responses⟩ := run_frame (s := (s.start .dParse).okayWrite) waits turns
        refine ⟨_, u, ran, turns, inputs, responses, notTooLong, nofun, ?_, ?_⟩
        · rintro - _ ⟨⟩ exceeded
          exact absurd (kept.symm.trans exceeded) nofun
        · rintro - _ ⟨⟩ -
          exact ⟨h, r, d, header, decoded, fun isFatal => (fatal isFatal).1, nonfatal⟩

end Sys2Proof.Machine
end

section
/-! Re-entrancy (45_commands.md R253): all machines that have started a command on the same inputs end it in the same way,
whatever their internal state, result registers and buffers held before. -/

namespace Sys2Proof.Machine

/-- The machine has just started the command of phase `first` on these inputs (R245). -/
structure Started (first : Phase) (p : Params) (inLen : Word) (key : Byte) (bytes : ByteString) (s : State) : Prop where
  waits : s.queue = []
  phase : s.phase = first
  params : s.params = p
  len : s.internal.len = inLen
  k8 : s.internal.k8 = key
  obuf : s.obuf = []
  /-- A length above IBUF_SIZE needs no byte of the input. -/
  input : inLen.toNat ≤ p.ibufSize.toNat → s.input = bytes

/-- All these machines, left alone, end their command with the same result, result registers and OBUF bytes. -/
def EndAlike (machines : State → Prop) : Prop :=
  ∃ r n e p d m, ∀ s, machines s → ∃ u, Sys2Proof.core.run 5 s = .next u ∧ EndsWith u r n e p d ∧ u.obuf = m

theorem endAlike_of_raise {machines : State → Prop} {r : Result}
    (raises : ∀ s, machines s → s.queue = [] ∧ coreTurn s = .next (s.raise r)) : EndAlike machines := by
  refine ⟨r, 0, 0, 0, 0, [], fun s member => ?_⟩
  obtain ⟨waits, turn⟩ := raises s member
  exact ⟨_, run_raise 4 waits turn, s.raise_endsWith r, rfl⟩

/-- A command that two turns end leaves the machine idle for the other three. -/
theorem run_five_of_two {s u : State} (waits : s.queue = []) (ran : Sys2Proof.core.run 2 s = .next u) {r : Result}
    {n e d : Word} {p : Byte} (ends : EndsWith u r n e p d) : Sys2Proof.core.run 5 s = .next u := by
  obtain ⟨kept, -⟩ := run_frame waits ran
  obtain ⟨-, -, -, idle, -⟩ := ends
  exact run_stays ran (kept.waits waits) idle 3

section

variable {p : Params} {len : Word} {k8 : Byte} {input : ByteString}

theorem endAlike_encode (length : input.length = len.toNat) : EndAlike (Started .eFreq p len k8 input) := by
  obtain tooLong | fits := lt_or_ge p.ibufSize.toNat len.toNat
  · refine endAlike_of_raise (r := .capacityExceeded) ?_
    rintro s ⟨waits, phase, rfl, rfl, -, -, -⟩
    exact ⟨waits, coreTurn_eFreq_tooLong phase tooLong⟩
  · by_cases empty : len = 0
    · refine endAlike_of_raise (r := .emptyInput) ?_
      rintro s ⟨waits, phase, rfl, rfl, -, -, -⟩
      exact ⟨waits, coreTurn_eFreq_empty phase fits empty⟩
    · obtain ⟨c, table⟩ := exists_codeTableOf_of_length length empty
      obtain long | room := lt_or_ge p.obufSize.toNat (containerWith c input k8).length
      · refine ⟨.capacityExceeded, 0, 0, 0, 0, [], ?_⟩
        rintro s ⟨waits, phase, rfl, rfl, rfl, -, same⟩
        cases same fits
        obtain ⟨u, ran, ends, -⟩ := exists_run_eFreq waits phase fits empty table rfl
        exact ⟨u, ran, ends long⟩
      · refine ⟨.ok, BitVec.ofNat 32 (containerWith c input k8).length, BitVec.ofNat 32 (freqCount input).distinct,
          BitVec.ofNat 8 (padCountOf (symEncode c input).length), len,
          Memory.writeBytes [] 0 (containerWith c input k8), ?_⟩
        rintro s ⟨waits, phase, rfl, rfl, rfl, obuf, same⟩
        cases same fits
        obtain ⟨u, ran, -, ends⟩ := exists_run_eFreq waits phase fits empty table rfl
        exact ⟨u, ran, obuf ▸ ends room⟩

theorem endAlike_decode : EndAlike (Started .dParse p len k8 input) := by
  obtain tooLong | fits := lt_or_ge p.ibufSize.toNat len.toNat
  · refine endAlike_of_raise (r := .capacityExceeded) ?_
    rintro s ⟨waits, phase, rfl, rfl, -, -, -⟩
    exact ⟨waits, coreTurn_dParse_tooLong phase tooLong⟩
  · cases parsed : parseTable p.decTableCap.toNat p.decCodeCap.toNat input with
    | none =>
      refine endAlike_of_raise (r := .truncatedContainer) ?_
      rintro s ⟨waits, phase, rfl, rfl, -, -, same⟩
      cases same fits
      exact ⟨waits, coreTurn_dParse_truncated phase fits parsed⟩
    | some t =>
      cases kept : t.overCap with
      | true =>
        refine endAlike_of_raise (r := .capacityExceeded) ?_
        rintro s ⟨waits, phase, rfl, rfl, -, -, same⟩
        cases same fits
        exact ⟨waits, coreTurn_dParse_overCap phase fits parsed kept⟩
      | false =>
        obtain ⟨h, header⟩ := exists_readHeader_of_parseTable parsed k8
        obtain ⟨r, d, decoded, -⟩ := greedyDecodeEnds (buildRmap t.entries) (trim (unpack h.payload) h.padCount.toNat)
          h.declLen.toNat p.obufSize.toNat []
        cases fatal : r.fatal with
        | true =>
          refine ⟨r, 0, 0, 0, 0, [], ?_⟩
          rintro s ⟨waits, phase, rfl, rfl, rfl, obuf, same⟩
          cases same fits
          obtain ⟨u, ran, ends, -⟩ := exists_run_dParse waits phase fits parsed kept header obuf decoded
          exact ⟨u, run_five_of_two waits ran (ends fatal).1, ends fatal⟩
        | false =>
          refine ⟨r, BitVec.ofNat 32 d.cnt, t.entryCount, h.padCount, h.declLen, d.obuf, ?_⟩
          rintro s ⟨waits, phase, rfl, rfl, rfl, obuf, same⟩
          cases same fits
          obtain ⟨u, ran, -, ends⟩ := exists_run_dParse waits phase fits parsed kept header obuf decoded
          exact ⟨u, run_five_of_two waits ran (ends fatal).1, ends fatal⟩

end

/-- Two machines about to start a command that ends alike on both do end it alike. -/
theorem EndAlike.same_outcome {machines : State → Prop} (alike : EndAlike machines) {a a' t t' : State}
    (starts : step a = .next t) (member : machines t) (starts' : step a' = .next t') (member' : machines t') :
    ∃ u u', Sys2Proof.core.run 6 a = .next u ∧ Sys2Proof.core.run 6 a' = .next u'
      ∧ EndsWith u' u.result u.outLen u.entries u.pad u.declLen ∧ u'.obuf = u.obuf := by
  obtain ⟨r, n, e, p, d, m, ends⟩ := alike
  obtain ⟨u, ran, ⟨-, -, rfl, -, rfl, rfl, rfl, rfl⟩, rfl⟩ := ends t member
  obtain ⟨u', ran', ends'⟩ := ends t' member'
  exact ⟨u, u', (run_step starts).trans ran, (run_step starts').trans ran', ends'⟩

/-- START latches the inputs and leaves no byte of OBUF (R245). -/
theorem started_start {s : State} (waits : s.queue = []) (first : Phase) {p : Params} {len : Word} {k8 : Byte}
    {input : ByteString} (params : s.params = p) (inLen : s.inLen = len) (key : keyByte s.key = k8)
    (bytes : len.toNat ≤ p.ibufSize.toNat → s.ibufBytes s.inLen.toNat = input) :
    Started first p len k8 input (s.start first).okayWrite :=
  ⟨waits, rfl, params, inLen, key, rfl, bytes⟩

/-- Settles O50: both machines start the command on the same inputs. -/
theorem outcomeDependsOnlyOnTheInputs : Obligations.OutcomeDependsOnlyOnTheInputs := by
  intro s s' i command idle idle' waits waits' params inLen key bytes
  have started (first : Phase) := started_start waits first rfl rfl rfl fun _ => rfl
  have started' (first : Phase) := started_start waits' first params.symm inLen.symm key.symm fun fits => (bytes fits).symm
  obtain rfl | rfl := command
  · exact (endAlike_encode (s.ibufBytes_length _)).same_outcome (step_encode idle) (started _) (step_encode idle')
      (started' _)
  · exact endAlike_decode.same_outcome (step_decode idle) (started _) (step_decode idle') (started' _)

end Sys2Proof.Machine
end

section
/-! The accesses the host port refuses (60_exceptions.md R267, 20_memory.md R67). -/

namespace Sys2Proof.Machine

/-- The accesses to REG that the port does not serve (R64). -/
theorem not_regAccessOk_iff {offset : Word} {width : Nat} :
    ¬ regAccessOk offset width = true ↔ width ≠ 32 ∨ offset.toNat % 4 ≠ 0 ∨ offset.toNat > 0x3C := by
  simp only [regAccessOk, Bool.and_eq_true, decide_eq_true_eq]
  omega

/-- The accesses to a buffer that the port does not serve (R65 to R67). -/
theorem not_bufAccessOk_iff {size index : Word} {width : Nat} :
    ¬ bufAccessOk size index width = true ↔ width ≠ 8 ∨ index.toNat ≥ size.toNat := by
  rw [bufAccessOk_iff]
  omega

section
variable {s : State} {i : Word} {w : Nat}

theorem hostTransaction_readReg_refused (refused : ¬ regAccessOk i w = true) :
    hostTransaction (.read .reg i w) s = .next s.errorRead :=
  if_neg refused

theorem hostTransaction_writeReg_refused (refused : ¬ regAccessOk i w = true) (v : Word) :
    hostTransaction (.write .reg i w v) s = .next s.errorWrite :=
  if_neg refused

theorem hostTransaction_readIbuf_refused (refused : ¬ bufAccessOk s.params.ibufSize i w = true) :
    hostTransaction (.read .ibuf i w) s = .next s.errorRead :=
  if_neg refused

theorem hostTransaction_writeIbuf_refused (refused : ¬ bufAccessOk s.params.ibufSize i w = true) (v : Word) :
    hostTransaction (.write .ibuf i w v) s = .next s.errorWrite :=
  if_neg refused

theorem hostTransaction_readObuf_refused (refused : ¬ bufAccessOk s.params.obufSize i w = true) :
    hostTransaction (.read .obuf i w) s = .next s.errorRead :=
  if_neg refused

/-- While busy CTRL, KEY and IN_LEN take no write of any width: of width 32 by R63, of another by R64. -/
theorem hostTransaction_writeReg_busy (busy : s.busy = true) (input : i = 0x00 ∨ i = 0x08 ∨ i = 0x0C) (v : Word) :
    hostTransaction (.write .reg i w v) s = .next s.errorWrite := by
  by_cases width : w = 32
  · obtain rfl := width
    obtain ⟨-, refused, -⟩ := registerWrites s v
    exact refused busy i (by simpa using input)
  · exact hostTransaction_writeReg_refused (not_regAccessOk_iff.mpr (.inl width)) v

/-- While busy IBUF takes no write, inside it or not (R65). -/
theorem hostTransaction_writeIbuf_busy (busy : s.busy = true) (v : Word) :
    hostTransaction (.write .ibuf i w v) s = .next s.errorWrite := by
  by_cases served : bufAccessOk s.params.ibufSize i w = true
  · obtain ⟨rfl, inside⟩ := bufAccessOk_iff.mp served
    rw [hostTransaction_writeIbuf inside, State.writeIfIdle_busy _ busy]
  · exact hostTransaction_writeIbuf_refused served v

end

/-- Settles O23: each clause is the port's rule for that refused access, whose answer is the ERROR response alone. -/
theorem refusedAccessesChangeNothing : Obligations.RefusedAccessesChangeNothing := by
  refine fun s i w v => ⟨fun bad => ?_, fun busy input => ?_, fun bad => ?_, fun busy => ?_, fun bad => ?_, ?_⟩
  · have refused := not_regAccessOk_iff.mpr bad
    exact ⟨hostTransaction_readReg_refused refused, hostTransaction_writeReg_refused refused v⟩
  · exact hostTransaction_writeReg_busy busy input v
  · have refused := not_bufAccessOk_iff.mpr bad
    exact ⟨hostTransaction_readIbuf_refused refused, hostTransaction_writeIbuf_refused refused v⟩
  · exact hostTransaction_writeIbuf_busy busy v
  · exact hostTransaction_readObuf_refused (not_bufAccessOk_iff.mpr bad)
  · exact hostTransaction_writeObuf w v

end Sys2Proof.Machine
end

section
/-! Reset as the host sees it (70_reset_and_hazards.md R290 to R292). -/

namespace Sys2Proof.Machine

/-- The fields in which a reset differs from `State.resetWith` (what waits, the responses, the draw counters: log 4, log 12)
are none of those a register shows. -/
@[simp] theorem State.applyReset_readReg (s : State) (offset : Word) :
    s.applyReset.readReg offset = (State.resetWith s.params).readReg offset := rfl

/-- Settles O17: the step is `State.applyReset` after the reset is taken off the queue, and the register readings follow
from `State.applyReset_readReg`. -/
theorem resetAbandonsTheCommand : Obligations.ResetAbandonsTheCommand := by
  intro s q head
  refine ⟨{ s with queue := q }.applyReset, step_reset head, ?_⟩
  simp

end Sys2Proof.Machine
end
